-- ==== Sys2Proof/Word.lean ====
section
/-! DEFINITION. The word types of the block: 32-bit words, bytes, 16-bit audio samples and 9-bit block indices. -/

namespace Sys2Proof

/-- A 32-bit word: a register, a command word, or one word of the engine-local memory (R32, R48, R100). -/
abbrev Word := BitVec 32

/-- One byte lane of a word (R73). -/
abbrev Byte := BitVec 8

/-- One audio sample, a 16-bit two's-complement integer (R47). -/
abbrev Sample := BitVec 16

/-- A block index as a command word carries it: an unsigned 9-bit field (R101, R102). -/
abbrev BlockIdx := BitVec 9

end Sys2Proof
end

