-- ==== Sys2Proof/Config.lean ====
section
/-! DEFINITION. What is fixed for one built block: its partition count and partition size, the sizes that
follow from them, and the one value the spec leaves open (the latency of commands and of INIT). -/

namespace Sys2Proof

/-- The build parameters that `PARAM` reports (R5, R7, R10, R34). Each is held as the distance above its least
legal value, so that every `Build` is legal: `1 ≤ P ≤ 100`, and `B = 2 ^ log2B` with `1 ≤ log2B ≤ 7`.
The hardware is `Build.hardware`. DESIGN CHOICE: a build is a field of State, and every rule is read with its sizes
(notes/assumptions/1.md). -/
structure Build where
  /-- `P - 1`. -/
  pIndex : Fin 100
  /-- `log2 B - 1`. -/
  bIndex : Fin 7
deriving DecidableEq, Repr

/-- PartitionCount `P` (R7). -/
def Build.P (b : Build) : Nat := b.pIndex.val + 1

/-- `log2 B`, the LOG2B field of `PARAM` (R34). -/
def Build.log2B (b : Build) : Nat := b.bIndex.val + 1

/-- PartitionSize `B`: samples per audio buffer and taps per partition (R5, R10). -/
def Build.B (b : Build) : Nat := 2 ^ b.log2B

/-- `log2 N`, the number of stages of a transform (R6, R145). -/
def Build.log2N (b : Build) : Nat := b.log2B + 1

/-- Transform points `N = 2·B` (R6, R10). -/
def Build.N (b : Build) : Nat := 2 ^ b.log2N

/-- Block length `L = 2·N` in words (R6, R10). -/
def Build.L (b : Build) : Nat := 2 * b.N

/-- `NBLK = 5·P + 8`, the number of implemented blocks (R8). -/
def Build.numBlocks (b : Build) : Nat := 5 * b.P + 8

/-- The canonical hardware: `P = 64`, `B = 128` (R5, R7). -/
def Build.hardware : Build := ⟨63, 6⟩

/-- A build from its sizes; none where the sizes are not those of this block: a `P` outside `[1, 100]`, or a
`B` that is not a power of two, is refused at model construction (93_implementation_defined.md I7). `B` above
128 is refused too (DEDUCED: notes/assumptions/2.md). -/
def Build.ofSizes? (p b : Nat) : Option Build :=
  if h : (1 ≤ p ∧ p ≤ 100) ∧ (1 ≤ b.log2 ∧ b.log2 ≤ 7) ∧ b = 2 ^ b.log2 then
    some ⟨⟨p - 1, by omega⟩, ⟨b.log2 - 1, by omega⟩⟩
  else none

/-- FREE VALUE (R9, R251, R262, 93_implementation_defined.md U3). `T_CMD` and `T_INIT` are not specified: the
`n`-th unit of engine work (an accepted command, or an INIT) lets `Config.latency n` host operations go first.
DESIGN CHOICE: time is counted in host operations (notes/assumptions/7.md).
The constant has no body, so every order of host operations and completion is a value of it, and each latency
is finite, as R86 requires. -/
opaque Config.latency : Nat → Nat

end Sys2Proof
end

