-- ==== Sys2Proof/Syntax.lean ====
section
/-! DEFINITION. The commands of the block, one constructor per row of spec/opcode_table.json (R103). -/

namespace Sys2Proof

/-- A command. Operands stand in the order A, Bf, C of R103. -/
inductive Instr where
  /-- NOP (R121). -/
  | nop
  /-- CLEAR dst (R122). -/
  | clear (dst : BlockIdx)
  /-- COPY dst, src (R123). -/
  | copy (dst src : BlockIdx)
  /-- CMAC acc, a, b (R124). -/
  | cmac (acc a b : BlockIdx)
  /-- FFT blk (R146). -/
  | fft (blk : BlockIdx)
  /-- IFFT blk (R147). -/
  | ifft (blk : BlockIdx)
  /-- PART dst, src (R161). -/
  | part (dst src : BlockIdx)
  /-- TICK (R181). -/
  | tick
  /-- COMMIT (R162). -/
  | commit
  /-- CLRSTATE (R187). -/
  | clrstate
deriving DecidableEq, Repr

/-- The used block fields of a command, A first, then Bf, then C (R103, R222 `used_fields`). -/
def Instr.blocks : Instr → List BlockIdx
  | .nop => []
  | .clear dst => [dst]
  | .copy dst src => [dst, src]
  | .cmac acc a b => [acc, a, b]
  | .fft blk => [blk]
  | .ifft blk => [blk]
  | .part dst src => [dst, src]
  | .tick => []
  | .commit => []
  | .clrstate => []

/-- The destination block of a command, where it has one: A of CLEAR, COPY, CMAC, FFT, IFFT and PART (R163). -/
def Instr.dest? : Instr → Option BlockIdx
  | .nop => none
  | .clear dst => some dst
  | .copy dst _ => some dst
  | .cmac acc _ _ => some acc
  | .fft blk => some blk
  | .ifft blk => some blk
  | .part dst _ => some dst
  | .tick => none
  | .commit => none
  | .clrstate => none

end Sys2Proof
end

