-- ==== Sys2Proof/WellFormed.lean ====
section
/-! DEFINITION. When a command is well formed for a build: every block it names is implemented (R107).
A command whose unused fields are nonzero (R106) or whose opcode is reserved (R105) is no `Instr` at all: the
decoder rejects it by name. -/

namespace Sys2Proof

/-- R107: a block index names an implemented block exactly when it is below `NBLK`. -/
def BlockIdx.implemented (b : Build) (x : BlockIdx) : Bool := decide (x.toNat < b.numBlocks)

/-- Every used block field of the command names an implemented block (R107). -/
def Instr.wellFormed (b : Build) (i : Instr) : Bool := i.blocks.all (BlockIdx.implemented b)

end Sys2Proof
end

