-- ==== Sys2Proof/Decode.lean ====
section
/-! DEFINITION. The command decoder, total on any word and on any bytes, and the encoder (30_encoding.md). -/

namespace Sys2Proof

/-- Why a word, or a string of bytes, is no command. -/
inductive DecodeError where
  /-- The opcode is reserved, `0x0A` to `0x1F` (R105). -/
  | illegalOpcode
  /-- A field the opcode does not use is nonzero (R106). -/
  | reservedField
  /-- Not exactly four bytes: a command is one 32-bit word (R100). -/
  | badLength
deriving DecidableEq, Repr

/-- One row of the match and mask table (R104). -/
structure OpRow where
  /-- The mnemonic of the row. -/
  mnemonic : String
  /-- The `match` column. -/
  matchWord : Word
  /-- The `mask` column. -/
  mask : Word
deriving DecidableEq, Repr

/-- The match and mask table (R104), in opcode order: row `n` is opcode `n` of R103. -/
def opTable : List OpRow :=
  [ ⟨"NOP", 0x00000000, 0xFFFFFFFF⟩,
    ⟨"CLEAR", 0x08000000, 0xFFFFFE00⟩,
    ⟨"COPY", 0x10000000, 0xFFFC0000⟩,
    ⟨"CMAC", 0x18000000, 0xF8000000⟩,
    ⟨"FFT", 0x20000000, 0xFFFFFE00⟩,
    ⟨"IFFT", 0x28000000, 0xFFFFFE00⟩,
    ⟨"PART", 0x30000000, 0xFFFC0000⟩,
    ⟨"TICK", 0x38000000, 0xFFFFFFFF⟩,
    ⟨"COMMIT", 0x40000000, 0xFFFFFFFF⟩,
    ⟨"CLRSTATE", 0x48000000, 0xFFFFFFFF⟩ ]

/-- OP, bits 31:27 of a command word (R101). -/
def fieldOp (c : Word) : Nat := (c.extractLsb' 27 5).toNat

/-- C, bits 26:18 (R101, R102). -/
def fieldC (c : Word) : BlockIdx := c.extractLsb' 18 9

/-- Bf, bits 17:9 (R101, R102). -/
def fieldB (c : Word) : BlockIdx := c.extractLsb' 9 9

/-- A, bits 8:0 (R101, R102). -/
def fieldA (c : Word) : BlockIdx := c.extractLsb' 0 9

/-- The command an opcode names with the operand fields of `c` (R103); none for a reserved opcode (R105). -/
def operation (op : Nat) (c : Word) : Option Instr :=
  match op with
  | 0x00 => some .nop
  | 0x01 => some (.clear (fieldA c))
  | 0x02 => some (.copy (fieldA c) (fieldB c))
  | 0x03 => some (.cmac (fieldA c) (fieldB c) (fieldC c))
  | 0x04 => some (.fft (fieldA c))
  | 0x05 => some (.ifft (fieldA c))
  | 0x06 => some (.part (fieldA c) (fieldB c))
  | 0x07 => some .tick
  | 0x08 => some .commit
  | 0x09 => some .clrstate
  | _ => none

/-- Decode a command word: the opcode check, then the reserved-field check (R104 to R106, in the order of
R222). -/
def decode (c : Word) : Except DecodeError Instr :=
  match operation (fieldOp c) c, opTable[fieldOp c]? with
  | some i, some row => if c &&& row.mask = row.matchWord then .ok i else .error .reservedField
  | _, _ => .error .illegalOpcode

/-- A command word from its four fields: `c = (OP << 27) | (C << 18) | (Bf << 9) | A` (R103). -/
def commandWord (op : BitVec 5) (c bf a : BlockIdx) : Word := op ++ c ++ bf ++ a

/-- The command word of a command (R103). -/
def encode : Instr → Word
  | .nop => commandWord 0x00 0 0 0
  | .clear dst => commandWord 0x01 0 0 dst
  | .copy dst src => commandWord 0x02 0 src dst
  | .cmac acc a b => commandWord 0x03 b a acc
  | .fft blk => commandWord 0x04 0 0 blk
  | .ifft blk => commandWord 0x05 0 0 blk
  | .part dst src => commandWord 0x06 0 src dst
  | .tick => commandWord 0x07 0 0 0
  | .commit => commandWord 0x08 0 0 0
  | .clrstate => commandWord 0x09 0 0 0

/-- The four byte lanes of a word, lane 0 first: lane `j` carries bits `8j+7 : 8j` (R73, little-endian). -/
def wordBytes (w : Word) : List Byte :=
  [w.extractLsb' 0 8, w.extractLsb' 8 8, w.extractLsb' 16 8, w.extractLsb' 24 8]

/-- The word of four byte lanes (R73). -/
def bytesWord (b0 b1 b2 b3 : Byte) : Word := b3 ++ b2 ++ b1 ++ b0

/-- Decode a command from the bytes of its word in the host's byte order (R73, R100). -/
def decodeBytes : List Byte → Except DecodeError Instr
  | [b0, b1, b2, b3] => decode (bytesWord b0 b1 b2 b3)
  | _ => .error .badLength

/-- The command the decoder reads from the low `nbits` bits of `w`, every bit above them 0. -/
def decodeTableWord (nbits w : Nat) : Option Instr :=
  (decodeBytes (wordBytes (BitVec.ofNat 32 (w % 2 ^ nbits)))).toOption

end Sys2Proof
end

