-- ==== Sys2Proof/Machine/State.lean ====
section
/-! DEFINITION. The state of the block as the spec gives it, its reset value, and the reasons a step can stop.
State is plain data: registers, one byte memory for every memory of the block, the pending command, and (the
model's own) the host's remaining operations with the bus responses they got. -/

namespace Sys2Proof.Machine

/-- Every memory of the block, keyed by the byte offset from BASE at which the host reaches it (R70, R76, R77):
a list of (address, byte) pairs, addresses strictly rising, holding no entry equal to what an unlisted address
reads as. -/
abbrev Memory := List Host.Cell

/-- What an address with no entry reads as: 0, the contents INIT gives every memory (R60, R251). DEDUCED:
notes/assumptions/8.md. -/
def Memory.unlisted : Byte := 0

/-- The canonical form of a memory from address `lo` on: strictly rising addresses, no entry at the unlisted
value. -/
def Memory.wfFrom (lo : Nat) : Memory → Bool
  | [] => true
  | (a, v) :: rest => decide (lo ≤ a) && decide (v ≠ Memory.unlisted) && Memory.wfFrom (a + 1) rest

/-- A memory is in canonical form. -/
def Memory.wf (m : Memory) : Bool := Memory.wfFrom 0 m

/-- One operation of the host, or of the platform, on the block (R13, R30, R111, R250). Addresses are byte
offsets from BASE. -/
inductive HostOp where
  /-- `MemRead(addr, size)`. -/
  | read (size addr : Nat)
  /-- `MemWrite(addr, size, value)`. -/
  | write (size addr : Nat) (value : Word)
  /-- `WAITIDLE`: the loop of `R32 0x00C` until BUSY reads 0 (R111). DESIGN CHOICE: notes/assumptions/11.md. -/
  | waitIdle
  /-- The platform's reset input (R250). DESIGN CHOICE: notes/assumptions/14.md. -/
  | reset
deriving DecidableEq, Repr

/-- What the bus answered to one host access (R230). DESIGN CHOICE: notes/assumptions/11.md. -/
inductive Response where
  /-- A read's data, with the error response or without it. -/
  | read (data : Word) (error : Bool)
  /-- A write, with the error response or without it. -/
  | write (error : Bool)
deriving DecidableEq, Repr

/-- Why a command is rejected (R221). -/
inductive CmdError where
  /-- ERR_BUSY. -/
  | busy
  /-- ERR_ILLEGAL_OPCODE. -/
  | illegalOpcode
  /-- ERR_RESERVED_FIELD. -/
  | reservedField
  /-- ERR_BLOCK_RANGE. -/
  | blockRange
  /-- ERR_ACTIVE_TF. -/
  | activeTf
deriving DecidableEq, Repr

/-- The state of one block. -/
structure State where
  /-- Build parameters, hardwired: PARAM.PCOUNT and PARAM.LOG2B (R34). -/
  build : Build
  /-- CTRL.PASSTHRU (R35). -/
  passthru : Bool
  /-- STATUS.BUSY (R36). -/
  busy : Bool
  /-- STATUS.ACTIVE_BANK (R36, R54): false is bank 0. -/
  activeBank : Bool
  /-- STATUS.INIT (R36). -/
  init : Bool
  /-- CURSOR.INDEX (R38). -/
  cursor : BitVec 8
  /-- GAIN (R39). -/
  gain : Word
  /-- INT_STATUS bits 4:0 (R40). -/
  intStatus : BitVec 5
  /-- INT_ENABLE bits 4:0 (R41). -/
  intEnable : BitVec 5
  /-- ERR_CODE bits 7:0 (R42). -/
  errCode : BitVec 8
  /-- ERR_CMD (R43). -/
  errCmd : Word
  /-- TICK_COUNT (R44). -/
  tickCount : Word
  /-- SKIP_COUNT (R45). -/
  skipCount : Word
  /-- AUDIO_AVAIL bits 3:0 (R46). -/
  audioAvail : BitVec 4
  /-- `pending`: the accepted command word not yet completed (R55). -/
  pending : Option Word
  /-- The audio buffers (R47) and the engine-local memory (R48), at their host offsets (R76, R77). -/
  mem : Memory
  /-- MODEL'S OWN: the host operations not yet performed, in the one total order of R83. DESIGN CHOICE:
  notes/assumptions/3.md and 12.md. -/
  host : List HostOp
  /-- MODEL'S OWN: the bus responses so far, the latest first. DESIGN CHOICE: notes/assumptions/3.md. -/
  responses : List Response
  /-- MODEL'S OWN: how many host operations still go before the engine's next event; none where the free
  value `Config.latency` has not been counted down yet. DESIGN CHOICE: notes/assumptions/3.md and 7.md. -/
  wait : Option Nat
  /-- MODEL'S OWN: which value of `Config.latency` the present engine work has. DESIGN CHOICE:
  notes/assumptions/3.md and 7.md. -/
  draws : Nat
deriving DecidableEq, Repr

/-- Why a step of the machine stops. The block itself never stops (R220). -/
inductive Fault where
  /-- Raised by the engine step alone, when `pending` holds a word that is no command. The issue rule R222 never
  accepts such a word, so no run reaches it; the spec gives the engine nothing to do there. Safe: the model
  stops in a state the hardware cannot be in. DESIGN CHOICE: notes/assumptions/16.md. -/
  | pendingNotACommand
deriving DecidableEq, Repr

/-- Why the model gives an instruction no meaning. -/
inductive Refusal where
  /-- An arm of `exec` that has no meaning yet, by its mnemonic. No arm of this model answers it. Safe. -/
  | notModelled (mnemonic : String)
deriving DecidableEq, Repr

/-- The block right after reset (R60, R250, R251): every register at the reset column of R32, STATUS = 0x5,
nothing pending, INIT under way. The model's own fields are a DESIGN CHOICE (notes/assumptions/3.md), and the memory
lists nothing before INIT ends (notes/assumptions/6.md). -/
def State.reset : State where
  build := Build.hardware
  passthru := false
  busy := true
  activeBank := false
  init := true
  cursor := 0
  gain := 0x3F800000
  intStatus := 0
  intEnable := 0
  errCode := 0
  errCmd := 0
  tickCount := 0
  skipCount := 0
  audioAvail := 0
  pending := none
  mem := []
  host := []
  responses := []
  wait := none
  draws := 0

end Sys2Proof.Machine
end

