-- ==== Sys2Proof/Machine/Flags.lean ====
section
/-! DEFINITION. The status and interrupt bits: INT_STATUS and what sets and clears it, STATUS, AUDIO_AVAIL and the
interrupt output. The block has no arithmetic condition codes (R31). -/

namespace Sys2Proof.Machine

/-- INT_STATUS bit 0, DONE (R40). -/
def flagDone : BitVec 5 := 0x01

/-- INT_STATUS bit 1, OUT_READY (R40). -/
def flagOutReady : BitVec 5 := 0x02

/-- INT_STATUS bit 2, SKIP (R40). -/
def flagSkip : BitVec 5 := 0x04

/-- INT_STATUS bit 3, ERR (R40). -/
def flagErr : BitVec 5 := 0x08

/-- INT_STATUS bit 4, ERR_OVF (R40). -/
def flagErrOvf : BitVec 5 := 0x10

/-- INT_STATUS.ERR, bit 3 (R40). -/
def errFlag (flags : BitVec 5) : Bool := flags.getLsbD 3

/-- Set bits of INT_STATUS. -/
def raiseFlags (flags : BitVec 5) (s : State) : State := { s with intStatus := s.intStatus ||| flags }

/-- The interrupt output, a level: some enabled INT_STATUS bit is 1 (R56, R227). -/
def irq (s : State) : Bool := decide (s.intStatus &&& s.intEnable ≠ 0)

/-- All four AUDIO_AVAIL bits are 1: IN_L_VALID, IN_R_VALID, OUT_L_FREE and OUT_R_FREE (R46, R181). -/
def audioReady (s : State) : Bool := decide (s.audioAvail = 0xF)

/-- The code of a command error, ERR_CODE bits 7:0 (R221). -/
def errorCode : CmdError → BitVec 8
  | .busy => 0x01
  | .illegalOpcode => 0x02
  | .reservedField => 0x03
  | .blockRange => 0x04
  | .activeTf => 0x05

/-- The word of the STATUS register: BUSY, ACTIVE_BANK and INIT in bits 0, 1 and 2 (R36). -/
def statusWord (s : State) : Word :=
  (0 : BitVec 29) ++ BitVec.ofBool s.init ++ BitVec.ofBool s.activeBank ++ BitVec.ofBool s.busy

end Sys2Proof.Machine
end

