-- ==== Sys2Proof/Machine/Float.lean ====
section
/-! DEFINITION. The binary32 primitives (R14 to R22). Every intermediate value is exact, a natural number of units
of a fixed power of two, and each primitive rounds once. No primitive records a flag (R19). -/

namespace Sys2Proof.Machine

/-- What a binary32 pattern stands for (R14). -/
inductive FloatClass where
  /-- Not a number. -/
  | nan
  /-- An infinity, with its sign bit. -/
  | inf (neg : Bool)
  /-- The value `± sig · 2 ^ (exp - 149)`, zero and the subnormals among them. -/
  | finite (neg : Bool) (sig exp : Nat)
deriving DecidableEq, Repr

/-- The sign bit, bit 31 (R14). -/
def signBit (w : Word) : Bool := w.getLsbD 31

/-- The biased exponent, bits 30:23 (R14). -/
def biasedExp (w : Word) : Nat := (w.extractLsb' 23 8).toNat

/-- The fraction, bits 22:0 (R14). -/
def fraction (w : Word) : Nat := (w.extractLsb' 0 23).toNat

/-- Read a pattern by the binary32 layout (R14); subnormals are read as values. -/
def classify (w : Word) : FloatClass :=
  if biasedExp w = 255 then
    if fraction w = 0 then .inf (signBit w) else .nan
  else if biasedExp w = 0 then .finite (signBit w) (fraction w) 0
  else .finite (signBit w) (2 ^ 23 + fraction w) (biasedExp w - 1)

/-- The canonical NaN (R16). -/
def cnan : Word := 0x7FC00000

/-- ±∞ (R14). -/
def infinity (neg : Bool) : Word := if neg then 0xFF800000 else 0x7F800000

/-- ±0 (R14). -/
def zero (neg : Bool) : Word := if neg then 0x80000000 else 0x00000000

/-- A quotient of naturals rounded to the nearest integer, ties to the even integer. -/
def roundEven (num den : Nat) : Nat :=
  let q := num / den
  let r := num % den
  if 2 * r < den then q else if den < 2 * r then q + 1 else q + q % 2

/-- The pattern of `± m · 2 ^ (u - 149)`, where `m ≤ 2 ^ 24`, and `m < 2 ^ 23` only at `u = 0` (the subnormals).
With the leading bit of a normal significand added into the exponent field, `u · 2 ^ 23 + m` is that pattern:
exponent field `u + 1` and fraction `m - 2 ^ 23`, or `u + 2` and 0 where rounding carried to `m = 2 ^ 24`. -/
def packFinite (neg : Bool) (m u : Nat) : Word :=
  zero neg ||| BitVec.ofNat 32 (u * 2 ^ 23 + m)

/-- `RN32` of the exact nonzero value `± n · 2 ^ (-k)` (R15). With `e = log2 n - k`, `E = max e (-126)` and
`u = 2 ^ (E - 23)`, the exponent `unit` is `E + 126`, so that `u = 2 ^ (unit - 149)`. -/
def rn32 (neg : Bool) (n k : Nat) : Word :=
  let unit := n.log2 + 126 - k
  let m := roundEven (n * 2 ^ 149) (2 ^ (k + unit))
  if 2 ^ 277 ≤ m * 2 ^ unit then infinity neg else packFinite neg m unit

/-- A significand and exponent in units of `2 ^ (-149)`, with its sign. -/
def signedUnits (neg : Bool) (sig exp : Nat) : Int :=
  if neg then -((sig * 2 ^ exp : Nat) : Int) else ((sig * 2 ^ exp : Nat) : Int)

/-- The sum of two finite values (R17): exact, then rounded once. -/
def addFinite (na : Bool) (sa ea : Nat) (nb : Bool) (sb eb : Nat) : Word :=
  let q := signedUnits na sa ea + signedUnits nb sb eb
  if q = 0 then zero (na && nb && sa == 0 && sb == 0) else rn32 (decide (q < 0)) q.natAbs 149

/-- `fadd` (R17). -/
def fadd (a b : Word) : Word :=
  match classify a, classify b with
  | .nan, _ => cnan
  | _, .nan => cnan
  | .inf na, .inf nb => if na = nb then infinity na else cnan
  | .inf na, .finite _ _ _ => infinity na
  | .finite _ _ _, .inf nb => infinity nb
  | .finite na sa ea, .finite nb sb eb => addFinite na sa ea nb sb eb

/-- `fneg` (R17): bit 31 inverted, and CNAN for a NaN. -/
def fneg (a : Word) : Word :=
  match classify a with
  | .nan => cnan
  | _ => a ^^^ 0x80000000

/-- `fsub(a, b) = fadd(a, fneg(b))` (R17). -/
def fsub (a b : Word) : Word := fadd a (fneg b)

/-- `fmul` (R18). -/
def fmul (a b : Word) : Word :=
  match classify a, classify b with
  | .nan, _ => cnan
  | _, .nan => cnan
  | .inf na, .inf nb => infinity (na != nb)
  | .inf na, .finite nb sb _ => if sb = 0 then cnan else infinity (na != nb)
  | .finite na sa _, .inf nb => if sa = 0 then cnan else infinity (na != nb)
  | .finite na sa ea, .finite nb sb eb =>
    if sa * sb = 0 then zero (na != nb) else rn32 (na != nb) (sa * sb * 2 ^ (ea + eb)) 298

/-- `i2f`: the binary32 value equal to a 16-bit integer, +0 for 0 (R20). -/
def i2f (s : Sample) : Word :=
  if s.toInt = 0 then zero false else rn32 (decide (s.toInt < 0)) s.toInt.natAbs 0

/-- A value clamped to the 16-bit range (R21). -/
def saturate16 (r : Int) : Sample := BitVec.ofInt 16 (min 32767 (max (-32768) r))

/-- `f2i16`: to the nearest 16-bit integer, ties to even, saturating, NaN to 0 (R21). -/
def f2i16 (v : Word) : Sample :=
  match classify v with
  | .nan => 0
  | .inf neg => if neg then BitVec.ofInt 16 (-32768) else 32767
  | .finite neg sig exp =>
    let r : Int := roundEven (sig * 2 ^ exp) (2 ^ 149)
    saturate16 (if neg then -r else r)

/-- One complex value: a complex bin of a block, real part first (R12). -/
structure Cplx where
  /-- The real part. -/
  re : Word
  /-- The imaginary part. -/
  im : Word
deriving DecidableEq, Repr

/-- `cmul` (R22). -/
def cmul (a b : Cplx) : Cplx :=
  ⟨fsub (fmul a.re b.re) (fmul a.im b.im), fadd (fmul a.re b.im) (fmul a.im b.re)⟩

/-- `cadd` (R22). -/
def cadd (a b : Cplx) : Cplx := ⟨fadd a.re b.re, fadd a.im b.im⟩

end Sys2Proof.Machine
end

