-- ==== Sys2Proof/Machine/Memory.lean ====
section
/-! DEFINITION. Reading and writing the byte memory: one byte, one word, one 16-bit sample, and runs of them. Byte
order is decided here once, little-endian (R73). -/

namespace Sys2Proof.Machine

/-- The byte at an address. -/
def readByte (m : Memory) (a : Nat) : Byte :=
  match m with
  | [] => Memory.unlisted
  | (x, v) :: rest => if x = a then v else readByte rest a

/-- The entries of consecutive bytes from address `a` on; a byte at the unlisted value has no entry. -/
def listed (a : Nat) : List Byte → Memory
  | [] => []
  | v :: rest => if v = Memory.unlisted then listed (a + 1) rest else (a, v) :: listed (a + 1) rest

/-- Store consecutive bytes from address `a` on. -/
def writeBytes (m : Memory) (a : Nat) (bs : List Byte) : Memory :=
  m.filter (fun c => decide (c.1 < a)) ++ listed a bs ++ m.filter (fun c => decide (a + bs.length ≤ c.1))

/-- The entries of the `n` bytes from `a` on. -/
def window (m : Memory) (a n : Nat) : Memory :=
  m.filter (fun c => decide (a ≤ c.1) && decide (c.1 < a + n))

/-- The 32-bit word whose byte lane 0 is at `a` (R73). -/
def readWord (m : Memory) (a : Nat) : Word :=
  bytesWord (readByte m a) (readByte m (a + 1)) (readByte m (a + 2)) (readByte m (a + 3))

/-- Store a 32-bit word with its byte lane 0 at `a` (R73). -/
def writeWord (m : Memory) (a : Nat) (v : Word) : Memory := writeBytes m a (wordBytes v)

/-- The `n` consecutive words from `a` on. -/
def readWords (m : Memory) (a n : Nat) : List Word :=
  let near := window m a (4 * n)
  (List.range n).map fun i => readWord near (a + 4 * i)

/-- Store consecutive words from `a` on. -/
def writeWords (m : Memory) (a : Nat) (ws : List Word) : Memory := writeBytes m a (ws.flatMap wordBytes)

/-- The 16-bit sample at `a`: byte lanes 0 and 1 of its host word (R76). -/
def readSample (m : Memory) (a : Nat) : Sample := readByte m (a + 1) ++ readByte m a

/-- The byte lanes a sample is stored in. -/
def sampleBytes (x : Sample) : List Byte := [x.extractLsb' 0 8, x.extractLsb' 8 8]

/-- Store a 16-bit sample at `a` (R76). -/
def writeSample (m : Memory) (a : Nat) (x : Sample) : Memory := writeBytes m a (sampleBytes x)

/-- The samples of `n` consecutive host words from `a` on, one sample a word (R76). -/
def readSamples (m : Memory) (a n : Nat) : List Sample :=
  let near := window m a (4 * n)
  (List.range n).map fun k => readSample near (a + 4 * k)

/-- Store samples in consecutive host words from `a` on (R76). Byte lanes 2 and 3 of a sample's word are no
storage: nothing reads them, and they stay at the unlisted value (DEDUCED: notes/assumptions/9.md). -/
def writeSamples (m : Memory) (a : Nat) (xs : List Sample) : Memory :=
  writeBytes m a (xs.flatMap fun x => sampleBytes x ++ [Memory.unlisted, Memory.unlisted])

end Sys2Proof.Machine
end

