-- ==== Sys2Proof/Machine/Operands.lean ====
section
/-! DEFINITION. The operand forms: the block map of the engine-local memory, whole blocks as word lists and as
complex bins, and the audio buffers. -/

namespace Sys2Proof.Machine

/-- Host offset of the engine-local memory (R70, R77). -/
def elmBase : Nat := 0x100000

/-- Host offset of word `w` of block `b`: `0x100000 + 0x800·b + 4·w` (R77, R102). -/
def elmAddr (b w : Nat) : Nat := elmBase + 0x800 * b + 4 * w

/-- The number of a bank: false is bank 0 (R36, R54). -/
def bankNumber (bank : Bool) : Nat := if bank then 1 else 0

/-- `TF(k, ch, p) = 2·P·k + P·ch + p` (R49). -/
def tfBlock (b : Build) (k ch p : Nat) : Nat := 2 * b.P * k + b.P * ch + p

/-- FDL slot `i` is block `4·P + i` (R50). -/
def fdlBlock (b : Build) (i : Nat) : Nat := 4 * b.P + i

/-- WIN (R48, R51). -/
def winBlock (b : Build) : Nat := 5 * b.P

/-- ACCL (R48, R51). -/
def acclBlock (b : Build) : Nat := 5 * b.P + 1

/-- ACCR (R48, R51). -/
def accrBlock (b : Build) : Nat := 5 * b.P + 2

/-- OVL (R48, R52). -/
def ovlBlock (b : Build) : Nat := 5 * b.P + 3

/-- SCR0 to SCR3, for `j` from 0 to 3 (R48, R53). -/
def scrBlock (b : Build) (j : Nat) : Nat := 5 * b.P + 4 + j

/-- Block `x` is one of the `2·P` blocks of a bank (R49, R163, R222 `in_active_bank`). -/
def inBank (b : Build) (bank : Bool) (x : Nat) : Bool :=
  decide (2 * b.P * bankNumber bank ≤ x) && decide (x < 2 * b.P * bankNumber bank + 2 * b.P)

/-- The slot of the window `i` convolution ticks before the one written at `cursor`: `(c - i) mod P` (R182, R183),
the non-negative remainder of R11. -/
def fdlSlot (b : Build) (cursor : BitVec 8) (i : Nat) : Nat := (((cursor.toNat : Int) - i) % b.P).toNat

/-- The four audio buffers (R47). -/
inductive AudioBuf where
  /-- Input, left. -/
  | inL
  /-- Input, right. -/
  | inR
  /-- Output, left. -/
  | outL
  /-- Output, right. -/
  | outR
deriving DecidableEq, Repr

/-- `base(X)` (R76). -/
def audioBase : AudioBuf → Nat
  | .inL => 0x1000
  | .inR => 0x1200
  | .outL => 0x1400
  | .outR => 0x1600

/-- Host offset of sample `k` of a buffer: `base(X) + 4·k` (R76). -/
def audioAddr (x : AudioBuf) (k : Nat) : Nat := audioBase x + 4 * k

/-- `blk(b)`: the `L` words of a block (R12). -/
def readBlock (bd : Build) (m : Memory) (b : Nat) : List Word := readWords m (elmAddr b 0) bd.L

/-- Store words from word 0 of a block on. -/
def writeBlock (m : Memory) (b : Nat) (ws : List Word) : Memory := writeWords m (elmAddr b 0) ws

/-- A block of `L` words of +0.0 (R122). -/
def zeroBlock (bd : Build) : List Word := List.replicate bd.L 0x00000000

/-- The `B` samples of an audio buffer (R47). -/
def readBuffer (bd : Build) (m : Memory) (x : AudioBuf) : List Sample := readSamples m (audioAddr x 0) bd.B

/-- Store the samples of an audio buffer. -/
def writeBuffer (m : Memory) (x : AudioBuf) (xs : List Sample) : Memory := writeSamples m (audioAddr x 0) xs

/-- The complex bins of a word sequence: real part at the even word (R12). -/
def toBins : List Word → List Cplx
  | re :: im :: rest => ⟨re, im⟩ :: toBins rest
  | _ => []

/-- The word sequence of complex bins (R12). -/
def ofBins : List Cplx → List Word
  | [] => []
  | z :: rest => z.re :: z.im :: ofBins rest

/-- Bin `k` of a block, read from memory (R12). -/
def readBin (m : Memory) (b k : Nat) : Cplx :=
  ⟨readWord m (elmAddr b (2 * k)), readWord m (elmAddr b (2 * k + 1))⟩

end Sys2Proof.Machine
end

