-- ==== Sys2Proof/Machine/Ops.lean ====
section
/-! DEFINITION. The shared operations of the commands: completing one (R59, R226), recording a command error (R224)
and clearing it (R225), which are the block's only exception entry and return (R229), the operand checks (R107,
R163, R222), and clearing the convolution history. -/

namespace Sys2Proof.Machine

/-- The end of the indivisible completion step: nothing pending, BUSY 0, DONE set (R59, R226). -/
def complete (s : State) : State :=
  raiseFlags flagDone { s with pending := none, busy := false, wait := none }

/-- TAKING A COMMAND ERROR (R224): the first error is kept in ERR_CODE and ERR_CMD and sets ERR; a later one, until
the host clears ERR, only sets ERR_OVF. No state is saved and no mode changes (R229). -/
def recordCmdError (e : CmdError) (c : Word) (s : State) : State :=
  if errFlag s.intStatus then raiseFlags flagErrOvf s
  else raiseFlags flagErr { s with errCode := errorCode e, errCmd := c }

/-- RETURN FROM AN ERROR (R225, R229): a host write `v` to INT_STATUS clears each of the bits 4:0 that is 1 in `v`,
and with bit 3 clears ERR_CODE and ERR_CMD in the same step. -/
def clearIntStatus (v : Word) (s : State) : State :=
  let kept := { s with intStatus := s.intStatus &&& ~~~ v.setWidth 5 }
  if v.getLsbD 3 then { kept with errCode := 0, errCmd := 0 } else kept

/-- The operand checks of R222 on a decoded command, in order: every used field names an implemented block
(R107), and the destination is not in the active bank (R163). -/
def operandError (b : Build) (activeBank : Bool) (i : Instr) : Option CmdError :=
  if !i.wellFormed b then some .blockRange
  else match i.dest? with
    | some d => if inBank b activeBank d.toNat then some .activeTf else none
    | none => none

/-- A command that is not performed: it stops pending, BUSY is 0, DONE is not set, and its error is recorded
(R223, R224). -/
def abandon (e : CmdError) (c : Word) (s : State) : State :=
  recordCmdError e c { s with pending := none, busy := false, wait := none }

/-- One command's indivisible step (R59): its effect `effect` and the completion (R226). The issue rule R222 has
refused every command whose operands fail their checks, so in a run they never fail here; on a state that no run
reaches, such a command is rejected as R107 and R163 say. DESIGN CHOICE: notes/assumptions/4.md. -/
def perform (i : Instr) (effect : State → State) (s : State) : Host.Outcome State Fault Refusal :=
  match operandError s.build s.activeBank i with
  | some e => .next (abandon e (encode i) s)
  | none => .next (complete (effect s))

/-- Replace the contents of one block. -/
def setBlock (b : Nat) (ws : List Word) (s : State) : State := { s with mem := writeBlock s.mem b ws }

/-- Store +0.0 in every word of FDL slots `0` to `n - 1`. -/
def clearSlots (bd : Build) (m : Memory) : Nat → Memory
  | 0 => m
  | n + 1 => writeBlock (clearSlots bd m n) (fdlBlock bd n) (zeroBlock bd)

/-- Store +0.0 in every word of every FDL slot and of OVL: the convolution history is cleared (R162, R187). -/
def clearHistory (bd : Build) (m : Memory) : Memory :=
  writeBlock (clearSlots bd m bd.P) (ovlBlock bd) (zeroBlock bd)

end Sys2Proof.Machine
end

