-- ==== Sys2Proof/Machine/Issue.lean ====
section
/-! DEFINITION. The issue of a command: what a host write to CMD does (R37, R222, R223). -/

namespace Sys2Proof.Machine

/-- The command error of a decode error (R221). A command word always has four bytes, so `badLength` never
arises here. -/
def decodeCmdError : DecodeError → CmdError
  | .illegalOpcode => .illegalOpcode
  | .reservedField => .reservedField
  | .badLength => .illegalOpcode

/-- The checks of R222 on a word written to CMD, the first failing one deciding the error: BUSY, opcode, reserved
fields, block range, active bank. -/
def issueError (s : State) (c : Word) : Option CmdError :=
  if s.busy then some .busy
  else match decode c with
    | .error e => some (decodeCmdError e)
    | .ok i => operandError s.build s.activeBank i

/-- An accepted command becomes pending and BUSY is 1 (R59, R222). Its latency is the next value of the free
`Config.latency` (R262). -/
def accept (c : Word) (s : State) : State :=
  { s with pending := some c, busy := true, wait := none, draws := s.draws + 1 }

/-- A host write of `c` to CMD (R37, R222): accepted, or rejected with the error recorded and nothing else changed
(R223). -/
def issue (c : Word) (s : State) : State :=
  match issueError s c with
  | some e => recordCmdError e c s
  | none => accept c s

end Sys2Proof.Machine
end

