-- ==== Sys2Proof/Machine/Registers.lean ====
section
/-! DEFINITION. The register page: the 14 registers, their offsets, reads and writes (R32 to R46, R75). -/

namespace Sys2Proof.Machine

/-- The registers of R32. -/
inductive Reg where
  /-- ID (R33). -/
  | id
  /-- PARAM (R34). -/
  | param
  /-- CTRL (R35). -/
  | ctrl
  /-- STATUS (R36). -/
  | status
  /-- CMD (R37). -/
  | cmd
  /-- CURSOR (R38). -/
  | cursor
  /-- GAIN (R39). -/
  | gain
  /-- INT_STATUS (R40). -/
  | intStatus
  /-- INT_ENABLE (R41). -/
  | intEnable
  /-- ERR_CODE (R42). -/
  | errCode
  /-- ERR_CMD (R43). -/
  | errCmd
  /-- TICK_COUNT (R44). -/
  | tickCount
  /-- SKIP_COUNT (R45). -/
  | skipCount
  /-- AUDIO_AVAIL (R46). -/
  | audioAvail
deriving DecidableEq, Repr

/-- The byte offset of a register (R32). -/
def regOffset : Reg → Nat
  | .id => 0x000
  | .param => 0x004
  | .ctrl => 0x008
  | .status => 0x00C
  | .cmd => 0x010
  | .cursor => 0x014
  | .gain => 0x018
  | .intStatus => 0x01C
  | .intEnable => 0x020
  | .errCode => 0x024
  | .errCmd => 0x028
  | .tickCount => 0x02C
  | .skipCount => 0x030
  | .audioAvail => 0x034

/-- Every register, in the order of R32. -/
def allRegs : List Reg :=
  [.id, .param, .ctrl, .status, .cmd, .cursor, .gain, .intStatus, .intEnable, .errCode, .errCmd, .tickCount,
    .skipCount, .audioAvail]

/-- The register at a byte offset, where R32 names one. -/
def regAt? (a : Nat) : Option Reg := allRegs.find? fun r => regOffset r == a

/-- The constant of ID, "AUR1" (R33). -/
def idWord : Word := 0x41555231

/-- PARAM: PCOUNT in bits 7:0, LOG2B in bits 11:8, VERSION = 1 in bits 31:24 (R34). -/
def paramWord (b : Build) : Word :=
  (0x01 : BitVec 8) ++ (0 : BitVec 12) ++ BitVec.ofNat 4 b.log2B ++ BitVec.ofNat 8 b.P

/-- A read of a register (R32 to R46): reserved bits read 0, CMD reads 0, and no read has a side effect (R75). -/
def readReg (s : State) : Reg → Word
  | .id => idWord
  | .param => paramWord s.build
  | .ctrl => (BitVec.ofBool s.passthru).setWidth 32
  | .status => statusWord s
  | .cmd => 0
  | .cursor => s.cursor.setWidth 32
  | .gain => s.gain
  | .intStatus => s.intStatus.setWidth 32
  | .intEnable => s.intEnable.setWidth 32
  | .errCode => s.errCode.setWidth 32
  | .errCmd => s.errCmd
  | .tickCount => s.tickCount
  | .skipCount => s.skipCount
  | .audioAvail => s.audioAvail.setWidth 32

/-- A write of a register (R32 to R46): RO registers and reserved bits ignore it, INT_STATUS is cleared by ones
(R225), and CMD issues a command (R37). -/
def writeReg (r : Reg) (v : Word) (s : State) : State :=
  match r with
  | .ctrl => { s with passthru := v.getLsbD 0 }
  | .cmd => issue v s
  | .gain => { s with gain := v }
  | .intStatus => clearIntStatus v s
  | .intEnable => { s with intEnable := v.setWidth 5 }
  | .audioAvail => { s with audioAvail := v.setWidth 4 }
  | .id | .param | .status | .cursor | .errCode | .errCmd | .tickCount | .skipCount => s

/-- The registers whose writes are refused while BUSY: CTRL, GAIN and AUDIO_AVAIL (R79). -/
def busyProtected : Reg → Bool
  | .ctrl | .gain | .audioAvail => true
  | .id | .param | .status | .cmd | .cursor | .intStatus | .intEnable | .errCode | .errCmd | .tickCount
  | .skipCount => false

end Sys2Proof.Machine
end

