-- ==== Sys2Proof/Machine/Bus.lean ====
section
/-! DEFINITION. The host bus: the window's map, the protection rules and the host's reads and writes
(20_memory.md, R230). -/

namespace Sys2Proof.Machine

/-- What a mapped offset names (R70). -/
inductive Target where
  /-- A register. -/
  | reg (r : Reg)
  /-- Sample `k` of an audio buffer. -/
  | audio (x : AudioBuf) (k : Nat)
  /-- Word `w` of block `b` of the engine-local memory. -/
  | elm (b w : Nat)
deriving DecidableEq, Repr

/-- The audio buffer of each 0x200-byte part of the audio region (R70, R76). -/
def audioPart : Nat → AudioBuf
  | 0 => .inL
  | 1 => .inR
  | 2 => .outL
  | _ => .outR

/-- What a word offset names, where R70 maps it: a register, a sample, or a word of an implemented block; none for
an unmapped offset (R74). -/
def targetAt? (b : Build) (a : Nat) : Option Target :=
  if a < 0x1000 then (regAt? a).map Target.reg
  else if a < 0x1800 then
    let k := (a - 0x1000) % 0x200 / 4
    if k < b.B then some (.audio (audioPart ((a - 0x1000) / 0x200)) k) else none
  else if a < elmBase then none
  else
    let blk := (a - elmBase) / 0x800
    let w := (a - elmBase) % 0x800 / 4
    if blk < b.numBlocks ∧ w < b.L then some (.elm blk w) else none

/-- R79: refused while BUSY. Every access of the audio buffers and of the engine-local memory is, and a write of
CTRL, GAIN or AUDIO_AVAIL. -/
def busyRefused (isWrite : Bool) : Target → Bool
  | .reg r => isWrite && busyProtected r
  | .audio _ _ => true
  | .elm _ _ => true

/-- R80: a write to a word of a block of the active bank. -/
def bankRefused (b : Build) (activeBank isWrite : Bool) : Target → Bool
  | .elm blk _ => isWrite && inBank b activeBank blk
  | .reg _ => false
  | .audio _ _ => false

/-- What an access reaches, or none where it is refused with BusError: its size is not 4 (R71), it is misaligned
(R72) or unmapped (R74), the block is busy (R79), or it writes the active bank (R80) (R230). DESIGN CHOICE for an
offset beyond the window: notes/assumptions/10.md. -/
def accessTarget (s : State) (isWrite : Bool) (size a : Nat) : Option Target :=
  if size ≠ 4 ∨ a % 4 ≠ 0 then none
  else match targetAt? s.build a with
    | none => none
    | some t =>
      if (s.busy && busyRefused isWrite t) || bankRefused s.build s.activeBank isWrite t then none else some t

/-- The data a read of a target returns (R75 to R77): a sample is sign-extended to 32 bits. -/
def readTarget (s : State) : Target → Word
  | .reg r => readReg s r
  | .audio x k => (readSample s.mem (audioAddr x k)).signExtend 32
  | .elm b w => readWord s.mem (elmAddr b w)

/-- The effect of a write to a target (R75 to R77): of a sample's word, bits 31:16 are ignored. -/
def writeTarget (t : Target) (v : Word) (s : State) : State :=
  match t with
  | .reg r => writeReg r v s
  | .audio x k => { s with mem := writeSample s.mem (audioAddr x k) (v.setWidth 16) }
  | .elm b w => { s with mem := writeWord s.mem (elmAddr b w) v }

/-- Record the bus response of an access. -/
def respond (r : Response) (s : State) : State := { s with responses := r :: s.responses }

/-- `MemRead(addr, size)` (R71 to R82). A refused read returns 0 with an error response (R230). What the host does
with the response is outside the block (notes/assumptions/18.md). -/
def hostRead (size a : Nat) (s : State) : State :=
  match accessTarget s false size a with
  | some t => respond (.read (readTarget s t) false) s
  | none => respond (.read 0 true) s

/-- `MemWrite(addr, size, v)` (R71 to R82). A refused write is dropped with an error response (R230). -/
def hostWrite (size a : Nat) (v : Word) (s : State) : State :=
  match accessTarget s true size a with
  | some t => respond (.write false) (writeTarget t v s)
  | none => respond (.write true) s

end Sys2Proof.Machine
end

