-- ==== Sys2Proof/Machine/Audio.lean ====
section
/-! DEFINITION. The audio sample adapter: the output stage, the passthrough mux, the skip and the audio handshake
(44_audio_adapter.md). -/

namespace Sys2Proof.Machine

/-- The output stage on one value: `f2i16(fmul(g, y))` (R201). -/
def outputSample (gain y : Word) : Sample := f2i16 (fmul gain y)

/-- Store both output buffers. -/
def setOutputs (outL outR : List Sample) (s : State) : State :=
  { s with mem := writeBuffer (writeBuffer s.mem .outL outL) .outR outR }

/-- `output_stage(yL, yR)` (R201). -/
def outputStage (yL yR : List Word) (s : State) : State :=
  setOutputs (yL.map (outputSample s.gain)) (yR.map (outputSample s.gain)) s

/-- `passthrough()` (R202): a bit-exact copy of the input buffers. -/
def passthrough (s : State) : State :=
  setOutputs (readBuffer s.build s.mem .inL) (readBuffer s.build s.mem .inR) s

/-- `skip_tick()` (R203, R205). -/
def skipTick (s : State) : State :=
  raiseFlags flagSkip { s with skipCount := s.skipCount + 1 }

/-- `complete_audio()` (R204, R205). -/
def completeAudio (s : State) : State :=
  raiseFlags flagOutReady { s with audioAvail := 0, tickCount := s.tickCount + 1 }

end Sys2Proof.Machine
end

