-- ==== Sys2Proof/Machine/Kernels.lean ====
section
/-! DEFINITION. The complex arithmetic kernels NOP, CLEAR, COPY and CMAC (40_arith_kernels.md). -/

namespace Sys2Proof.Machine

/-- NOP (R121). -/
def execNop (s : State) : Host.Outcome State Fault Refusal := perform .nop (fun s => s) s

/-- CLEAR dst (R122). -/
def execClear (dst : BlockIdx) (s : State) : Host.Outcome State Fault Refusal :=
  perform (.clear dst) (fun s => setBlock dst.toNat (zeroBlock s.build) s) s

/-- COPY dst, src (R123): bit patterns, no arithmetic. -/
def execCopy (dst src : BlockIdx) (s : State) : Host.Outcome State Fault Refusal :=
  perform (.copy dst src) (fun s => setBlock dst.toNat (readBlock s.build s.mem src.toNat) s) s

/-- The CMAC body on one bin: `acc + a · b`, each of the eight operations rounded once (R22, R124). -/
def cmacBin (acc a b : Cplx) : Cplx := cadd acc (cmul a b)

/-- `cmac_step` on whole blocks (R124, R182): every bin by itself, its six values read before two are written. -/
def cmacWords (acc a b : List Word) : List Word :=
  ofBins (List.zipWith (fun c p => cadd c p) (toBins acc) (List.zipWith cmul (toBins a) (toBins b)))

/-- CMAC acc, a, b (R124). -/
def execCmac (acc a b : BlockIdx) (s : State) : Host.Outcome State Fault Refusal :=
  perform (.cmac acc a b)
    (fun s => setBlock acc.toNat
      (cmacWords (readBlock s.build s.mem acc.toNat) (readBlock s.build s.mem a.toNat)
        (readBlock s.build s.mem b.toNat)) s) s

end Sys2Proof.Machine
end

