-- ==== Sys2Proof/Machine/Transform.lean ====
section
/-! DEFINITION. The transform engine: bit reversal, the butterflies, the transform procedure, and the commands FFT
and IFFT (41_transform.md). -/

namespace Sys2Proof.Machine

/-- The direction of a transform (R145). -/
inductive Dir where
  /-- Forward, unnormalised (R140). -/
  | fwd
  /-- Inverse, scaled by `1/N` (R140). -/
  | inv
deriving DecidableEq, Repr

/-- `revG(n)`: the `g`-bit binary representation of `n` read backwards (R142); `rev8` at `g = 8`. -/
def bitRev : Nat → Nat → Nat
  | 0, _ => 0
  | g + 1, n => n % 2 * 2 ^ g + bitRev g (n / 2)

/-- The rotated lower operand of the forward butterfly: `Bv · e^(-iθk)`, with `c = TWC[k]` and `s = TWS[k]`
(R143). -/
def rotateFwd (c s : Word) (b : Cplx) : Cplx :=
  ⟨fadd (fmul b.re c) (fmul b.im s), fsub (fmul b.im c) (fmul b.re s)⟩

/-- The rotated lower operand of the inverse butterfly: `Bv · e^(+iθk)` (R144). -/
def rotateInv (c s : Word) (b : Cplx) : Cplx :=
  ⟨fsub (fmul b.re c) (fmul b.im s), fadd (fmul b.im c) (fmul b.re s)⟩

/-- The rotated lower operand of a butterfly of a `2 ^ g`-point transform at twiddle index `k` (R143, R144). -/
def rotate (dir : Dir) (g k : Nat) (b : Cplx) : Cplx :=
  match dir with
  | .fwd => rotateFwd (twc g k) (tws g k) b
  | .inv => rotateInv (twc g k) (tws g k) b

/-- The upper output of a butterfly: `A' = A + t` (R143, R144). -/
def bflyUpper (a t : Cplx) : Cplx := ⟨fadd a.re t.re, fadd a.im t.im⟩

/-- The lower output of a butterfly: `B' = A - t` (R143, R144). -/
def bflyLower (a t : Cplx) : Cplx := ⟨fsub a.re t.re, fsub a.im t.im⟩

/-- The butterfly (R143 forward, R144 inverse). -/
def bfly (dir : Dir) (g k : Nat) (a b : Cplx) : Cplx × Cplx :=
  let t := rotate dir g k b
  (bflyUpper a t, bflyLower a t)

/-- Element `i` of the engine's internal sequence `y` (R145). -/
def point (y : List Cplx) (i : Nat) : Cplx := y.getD i ⟨0, 0⟩

/-- The bit-reversed load of R145: `y[rev(n)] <- x[n]` for `n` from 0 to `2 ^ g - 1`. -/
def loadReversed (g : Nat) (x : List Cplx) : List Cplx :=
  (List.range (2 ^ g)).foldl (fun y n => y.set (bitRev g n) (point x n)) (List.replicate (2 ^ g) ⟨0, 0⟩)

/-- One in-place butterfly of R145, on `y[base+j]` and `y[base+j+h]` at twiddle index `k`. -/
def bflyAt (dir : Dir) (g h k base j : Nat) (y : List Cplx) : List Cplx :=
  let r := bfly dir g k (point y (base + j)) (point y (base + j + h))
  (y.set (base + j) r.1).set (base + j + h) r.2

/-- The innermost loop of R145 over `j`, ascending, at one `base`. -/
def bflyGroup (dir : Dir) (g h step base : Nat) (y : List Cplx) : List Cplx :=
  (List.range h).foldl (fun y j => bflyAt dir g h (j * step) base j y) y

/-- Stage `s` of R145, `1 ≤ s ≤ g`: `m = 2^s`, `h = m/2`, `step = N/m`, and `base = 0, m, 2m, …, N - m`. -/
def stage (dir : Dir) (g s : Nat) (y : List Cplx) : List Cplx :=
  (List.range (2 ^ (g - s))).foldl (fun y q => bflyGroup dir g (2 ^ (s - 1)) (2 ^ (g - s)) (q * 2 ^ s) y) y

/-- The first `n` stages of R145. -/
def stages (dir : Dir) (g : Nat) (y : List Cplx) : Nat → List Cplx
  | 0 => y
  | n + 1 => stage dir g (n + 1) (stages dir g y n)

/-- The pattern of the exact constant `1/N = 2 ^ (-g)`: `0x3B800000` at `N = 256` (R145). -/
def invScale (g : Nat) : Word := BitVec.ofNat 32 ((127 - g) * 2 ^ 23)

/-- The scaling of an output of R145: none forward, by `1/N` inverse. -/
def scaleOut (dir : Dir) (g : Nat) (z : Cplx) : Cplx :=
  match dir with
  | .fwd => z
  | .inv => ⟨fmul z.re (invScale g), fmul z.im (invScale g)⟩

/-- The transform of `2 ^ g` complex points (R145). -/
def transform (dir : Dir) (g : Nat) (x : List Cplx) : List Cplx :=
  (stages dir g (loadReversed g x) g).map (scaleOut dir g)

/-- `xform` on the words of a block (R145). -/
def xform (bd : Build) (dir : Dir) (ws : List Word) : List Word :=
  ofBins (transform dir bd.log2N (toBins ws))

/-- `xform(b, dir)` on block `b` of the memory (R145). -/
def xformBlock (bd : Build) (dir : Dir) (b : Nat) (m : Memory) : Memory :=
  writeBlock m b (xform bd dir (readBlock bd m b))

/-- FFT blk (R146). -/
def execFft (blk : BlockIdx) (s : State) : Host.Outcome State Fault Refusal :=
  perform (.fft blk) (fun s => { s with mem := xformBlock s.build .fwd blk.toNat s.mem }) s

/-- IFFT blk (R147). -/
def execIfft (blk : BlockIdx) (s : State) : Host.Outcome State Fault Refusal :=
  perform (.ifft blk) (fun s => { s with mem := xformBlock s.build .inv blk.toNat s.mem }) s

end Sys2Proof.Machine
end

