-- ==== Sys2Proof/Machine/Fdl.lean ====
section
/-! DEFINITION. The frequency-domain delay line and the overlap-save kernel: TICK and CLRSTATE (43_fdl_ols.md). -/

namespace Sys2Proof.Machine

/-- The current samples as binary32 words, interleaved by channel: left even, right odd (R182 step a, R200). -/
def currentWords (bd : Build) (m : Memory) : List Word :=
  ofBins (List.zipWith (fun l r => ⟨i2f l, i2f r⟩) (readBuffer bd m .inL) (readBuffer bd m .inR))

/-- The previous tick's samples: words 0 to `2B - 1` of OVL, as patterns (R52, R182 step a). -/
def previousWords (bd : Build) (m : Memory) : List Word := readWords m (elmAddr (ovlBlock bd) 0) (2 * bd.B)

/-- Step (a): the 50%-overlapped window is stored in WIN (R182). -/
def buildWindow (bd : Build) (m : Memory) : Memory :=
  writeBlock m (winBlock bd) (previousWords bd m ++ currentWords bd m)

/-- Step (b): the current samples are saved in OVL words 0 to `2B - 1` (R182). -/
def saveOverlap (bd : Build) (m : Memory) : Memory :=
  writeBlock m (ovlBlock bd) (currentWords bd m)

/-- Step (c): WIN is transformed in place and copied to the FDL slot at the cursor (R182). -/
def fillSlot (bd : Build) (cursor : BitVec 8) (m : Memory) : Memory :=
  let m := xformBlock bd .fwd (winBlock bd) m
  writeBlock m (fdlBlock bd (fdlSlot bd cursor 0)) (readBlock bd m (winBlock bd))

/-- Step (d) for one channel: the accumulator after partitions `0` to `n - 1`, from +0.0 in ascending order, each
paired with the slot that many ticks old (R182, R183). -/
def accumulate (bd : Build) (m : Memory) (cursor : BitVec 8) (bank ch : Nat) : Nat → List Word
  | 0 => zeroBlock bd
  | n + 1 =>
    cmacWords (accumulate bd m cursor bank ch n) (readBlock bd m (fdlBlock bd (fdlSlot bd cursor n)))
      (readBlock bd m (tfBlock bd bank ch n))

/-- Steps (d) and (e) for one channel: the accumulator block ends holding its inverse transform (R182). -/
def convolveChannel (bd : Build) (cursor : BitVec 8) (bank ch acc : Nat) (m : Memory) : Memory :=
  writeBlock m acc (xform bd .inv (accumulate bd m cursor bank ch bd.P))

/-- Steps (a) to (e) on the memory (R182). -/
def olsMemory (bd : Build) (cursor : BitVec 8) (bank : Nat) (m : Memory) : Memory :=
  let m := fillSlot bd cursor (saveOverlap bd (buildWindow bd m))
  convolveChannel bd cursor bank 1 (accrBlock bd) (convolveChannel bd cursor bank 0 (acclBlock bd) m)

/-- Step (f): `(c + 1) mod P` (R182). -/
def nextCursor (bd : Build) (cursor : BitVec 8) : BitVec 8 := BitVec.ofNat 8 ((cursor.toNat + 1) % bd.P)

/-- `ols_tick()` on the state, the emitted values aside (R182). -/
def olsTick (s : State) : State :=
  { s with
    mem := olsMemory s.build s.cursor (bankNumber s.activeBank) s.mem
    cursor := nextCursor s.build s.cursor }

/-- `yL[n]`, `0 ≤ n < B`: the real parts of points `B` to `2B - 1` of ACCL (R182, R184). -/
def emittedLeft (bd : Build) (m : Memory) : List Word :=
  ((toBins (readBlock bd m (acclBlock bd))).drop bd.B).map Cplx.re

/-- `yR[n]`, `0 ≤ n < B`: the imaginary parts of points `B` to `2B - 1` of ACCR (R182, R184). -/
def emittedRight (bd : Build) (m : Memory) : List Word :=
  ((toBins (readBlock bd m (accrBlock bd))).drop bd.B).map Cplx.im

/-- The convolution branch of TICK before `complete_audio()` (R181, R207). -/
def convolve (s : State) : State :=
  let s := olsTick s
  outputStage (emittedLeft s.build s.mem) (emittedRight s.build s.mem) s

/-- The effect of TICK: a skip, a passthrough tick or a convolution tick (R181). -/
def tickEffect (s : State) : State :=
  if !audioReady s then skipTick s
  else if s.passthru then completeAudio (passthrough s)
  else completeAudio (convolve s)

/-- TICK (R181). -/
def execTick (s : State) : Host.Outcome State Fault Refusal := perform .tick tickEffect s

/-- CLRSTATE (R187): clear the convolution history and set the cursor to 0. -/
def execClrstate (s : State) : Host.Outcome State Fault Refusal :=
  perform .clrstate (fun s => { s with mem := clearHistory s.build s.mem, cursor := 0 }) s

end Sys2Proof.Machine
end

