-- ==== Sys2Proof/Machine/Partition.lean ====
section
/-! DEFINITION. Transfer-function loading: PART and COMMIT (42_partition.md). -/

namespace Sys2Proof.Machine

/-- Real samples as complex points with imaginary part +0.0 (R161). -/
def realPoints (h : List Word) : List Cplx := h.map fun v => ⟨v, 0⟩

/-- The input of PART's transform: `B` zero points, then the `B` samples as real points (R161). -/
def partInput (bd : Build) (h : List Word) : List Word :=
  ofBins (List.replicate bd.B ⟨0, 0⟩ ++ realPoints h)

/-- PART dst, src (R161): words 0 to `B - 1` of `src` are read first; its other words are not read. -/
def execPart (dst src : BlockIdx) (s : State) : Host.Outcome State Fault Refusal :=
  perform (.part dst src)
    (fun s => setBlock dst.toNat
      (xform s.build .fwd (partInput s.build (readWords s.mem (elmAddr src.toNat 0) s.build.B))) s) s

/-- COMMIT (R162): toggle the active bank and clear the convolution history, in one step. -/
def execCommit (s : State) : Host.Outcome State Fault Refusal :=
  perform .commit
    (fun s => { s with activeBank := !s.activeBank, mem := clearHistory s.build s.mem }) s

end Sys2Proof.Machine
end

