-- ==== Sys2Proof/Machine/Dispatch.lean ====
section
/-! DEFINITION. The meaning of every command, one arm per constructor of `Instr`. -/

namespace Sys2Proof.Machine

def exec (i : Instr) (s : State) : Host.Outcome State Fault Refusal :=
  match i with
  | .nop => Sys2Proof.Machine.execNop s
  | .clear dst => Sys2Proof.Machine.execClear dst s
  | .copy dst src => Sys2Proof.Machine.execCopy dst src s
  | .cmac acc a b => Sys2Proof.Machine.execCmac acc a b s
  | .fft blk => Sys2Proof.Machine.execFft blk s
  | .ifft blk => Sys2Proof.Machine.execIfft blk s
  | .part dst src => Sys2Proof.Machine.execPart dst src s
  | .tick => Sys2Proof.Machine.execTick s
  | .commit => Sys2Proof.Machine.execCommit s
  | .clrstate => Sys2Proof.Machine.execClrstate s

end Sys2Proof.Machine
end

