-- ==== Sys2Proof/Machine/Reset.lean ====
section
/-! DEFINITION. The reset input and the end of INIT (R250 to R252). -/

namespace Sys2Proof.Machine

/-- The platform's reset (R250): the pending command is abandoned, every register takes its reset value, and INIT
starts. The memories are overwritten at the end of INIT and cannot be reached before it (R79), so they are left
as they are (DESIGN CHOICE: notes/assumptions/6.md). -/
def platformReset (s : State) : State :=
  { State.reset with
    build := s.build
    mem := s.mem
    host := s.host
    responses := s.responses
    draws := s.draws + 1 }

/-- The end of INIT (R251): every word of every block and every sample is 0, and STATUS becomes 0 in one step. No
INT_STATUS bit is set and every other register keeps its value. -/
def endInit (s : State) : State :=
  { s with mem := [], busy := false, init := false, activeBank := false, wait := none }

end Sys2Proof.Machine
end

