-- ==== Sys2Proof/Machine/Schedule.lean ====
section
/-! DEFINITION. The two agents and whose turn it is: the host performs its operations in order, the engine ends INIT
or completes the pending command at a time the spec leaves open (R30, R59, R83, R262). -/

namespace Sys2Proof.Machine

/-- The engine has work: INIT runs, or a command is pending (R36, R55). -/
def engineWork (s : State) : Bool := s.init || s.pending.isSome

/-- How many host operations still go before the engine's event: the count in progress, or the free latency of the
present work where counting has not begun (R262). -/
def remaining (s : State) : Nat := s.wait.getD (Config.latency s.draws)

/-- It is the engine's turn: it has work, and its latency has run out or the host has nothing left to do. DESIGN
CHOICE: notes/assumptions/7.md. -/
def engineTurn (s : State) : Bool := engineWork s && (s.host.isEmpty || remaining s == 0)

/-- The command the engine runs next: `pending`, decoded. -/
def fetch? (s : State) : Option Instr :=
  if s.init then none else s.pending.bind fun c => (decode c).toOption

/-- The engine's event: the end of INIT, or the indivisible step of the pending command (R59, R251). -/
def engineStep (s : State) : Host.Outcome State Fault Refusal :=
  if s.init then .next (endInit s)
  else match fetch? s with
    | some i => exec i s
    | none => .fault .pendingNotACommand

/-- One host operation goes while the engine has work: its latency counts down. -/
def countDown (s : State) : State :=
  if engineWork s then { s with wait := some (remaining s - 1) } else s

/-- One host operation (R30, R111). WAITIDLE reads STATUS and stays first in the list while BUSY reads 1. -/
def hostOp (op : HostOp) (s : State) : State :=
  match op with
  | .read size a => hostRead size a s
  | .write size a v => hostWrite size a v s
  | .waitIdle =>
    let s' := hostRead 4 (regOffset .status) s
    if s.busy then { s' with host := .waitIdle :: s'.host } else s'
  | .reset => platformReset s

/-- The host's event: its next operation; with none left, nothing happens (R237). -/
def hostStep (s : State) : State :=
  match s.host with
  | [] => s
  | op :: rest => hostOp op (countDown { s with host := rest })

/-- One event of the total order of R83; two events never take effect in one step (R228). DEDUCED:
notes/assumptions/13.md. -/
def event (s : State) : Host.Outcome State Fault Refusal :=
  if engineTurn s then engineStep s else .next (hostStep s)

/-- `s` with command word `c` accepted and due: pending, BUSY, no INIT, no host operation before the engine's
event. -/
def placeCommand (c : Word) (s : State) : State :=
  { s with pending := some c, busy := true, init := false, wait := some 0 }

end Sys2Proof.Machine
end

