-- ==== Sys2Proof/Machine/Step.lean ====
section
/-! DEFINITION. The step of the machine: one event of the total order of R83. -/

namespace Sys2Proof.Machine

/-- One step: the engine's event where it is the engine's turn, else the host's next operation. -/
def step (s : State) : Host.Outcome State Fault Refusal := event s

/-- `s` with the command whose bits are the low `nbits` bits of `w` pending and due, so that the next step is that
command's completion step. DESIGN CHOICE: notes/assumptions/5.md, which says how a command comes to be pending in a
run. -/
def State.withFetchWord (s : State) (nbits w : Nat) : State :=
  placeCommand (BitVec.ofNat 32 (w % 2 ^ nbits)) s

end Sys2Proof.Machine
end

