-- ==== Sys2Proof/Machine/Assembler.lean ====
section
/-! DEFINITION. The assembler: command lines, symbolic block names, host statements and pseudo-instructions
(R109 to R112). It is total on any line of characters and names every error it refuses a line with. White space, the
spelling of numbers and the errors beyond those of R109 are a DESIGN CHOICE: notes/assumptions/15.md. -/

namespace Sys2Proof.Machine

/-- Why a line is no statement (R109, R110, R112). -/
inductive AsmError where
  /-- The first word is no mnemonic, pseudo-instruction or host statement. -/
  | unknownMnemonic
  /-- An operand count other than the one the mnemonic takes (R109). -/
  | operandCount
  /-- A block index that does not fit 9 bits, or a value that does not fit its place (R109). -/
  | outOfRange
  /-- A name that is neither a number nor a symbolic block name (R109). -/
  | unknownName
  /-- A subscript outside `[0, P)`, or an operand that breaks a pseudo-instruction's condition (R110, R112). -/
  | badSubscript
deriving DecidableEq, Repr

/-- A host statement (R111). -/
inductive HostStmt where
  /-- `W32 addr, value`. -/
  | w32 (addr : Nat) (value : Word)
  /-- `R32 addr`, with the name given to its result, where one is given. -/
  | r32 (addr : Nat) (name : List Char)
  /-- `WAITIDLE`. -/
  | waitIdle
  /-- A command line: the word it encodes to. -/
  | command (word : Word)
deriving DecidableEq, Repr

/-- The host operations a statement stands for: a command line is `W32 0x010, word` and then `WAITIDLE` (R111). -/
def HostStmt.ops : HostStmt → List HostOp
  | .w32 addr value => [.write 4 addr value]
  | .r32 addr _ => [.read 4 addr]
  | .waitIdle => [.waitIdle]
  | .command word => [.write 4 (regOffset .cmd) word, .waitIdle]

/-- The host operations of a host program (R111). -/
def programOps (p : List HostStmt) : List HostOp := p.flatMap HostStmt.ops

/-- `for k in a .. b: <statements>`, the statements written out once for each `k` in increasing order (R111). -/
def forStmts (a b : Nat) (body : Nat → List HostStmt) : List HostStmt :=
  (List.range (b + 1 - a)).flatMap fun j => body (a + j)

/-- White space between the words of a line. -/
def isBlank (c : Char) : Bool := c == ' ' || c == '\t'

/-- A word with the white space around it dropped. -/
def trimChars (cs : List Char) : List Char :=
  (((cs.dropWhile isBlank).reverse).dropWhile isBlank).reverse

/-- The parts of a text between the separators. -/
def splitAtChar (sep : Char) : List Char → List (List Char)
  | [] => [[]]
  | c :: rest =>
    if c = sep then [] :: splitAtChar sep rest
    else match splitAtChar sep rest with
      | [] => [[c]]
      | word :: more => (c :: word) :: more

/-- The value of a digit, decimal or hexadecimal of either case. -/
def digitValue (c : Char) : Option Nat :=
  if '0' ≤ c ∧ c ≤ '9' then some (c.toNat - '0'.toNat)
  else if 'a' ≤ c ∧ c ≤ 'f' then some (c.toNat - 'a'.toNat + 10)
  else if 'A' ≤ c ∧ c ≤ 'F' then some (c.toNat - 'A'.toNat + 10)
  else none

/-- Digits read in a radix after a value already read. -/
def digitsFrom (radix acc : Nat) : List Char → Option Nat
  | [] => some acc
  | c :: rest =>
    match digitValue c with
    | some d => if d < radix then digitsFrom radix (acc * radix + d) rest else none
    | none => none

/-- A number, decimal or `0x` hexadecimal (R109). -/
def number? : List Char → Option Nat
  | [] => none
  | '0' :: 'x' :: c :: rest => digitsFrom 16 0 (c :: rest)
  | cs => digitsFrom 10 0 cs

/-- A symbolic name that takes a subscript, with the index its subscript 0 stands for (R110). -/
def subscripted (b : Build) (name : List Char) : Option Nat :=
  if name = ['T', 'F', '0', 'L'] then some (tfBlock b 0 0 0)
  else if name = ['T', 'F', '0', 'R'] then some (tfBlock b 0 1 0)
  else if name = ['T', 'F', '1', 'L'] then some (tfBlock b 1 0 0)
  else if name = ['T', 'F', '1', 'R'] then some (tfBlock b 1 1 0)
  else if name = ['F', 'D', 'L'] then some (fdlBlock b 0)
  else none

/-- A symbolic name without a subscript (R110). -/
def plainName (b : Build) (name : List Char) : Option Nat :=
  if name = ['W', 'I', 'N'] then some (winBlock b)
  else if name = ['A', 'C', 'C', 'L'] then some (acclBlock b)
  else if name = ['A', 'C', 'C', 'R'] then some (accrBlock b)
  else if name = ['O', 'V', 'L'] then some (ovlBlock b)
  else if name = ['S', 'C', 'R', '0'] then some (scrBlock b 0)
  else if name = ['S', 'C', 'R', '1'] then some (scrBlock b 1)
  else if name = ['S', 'C', 'R', '2'] then some (scrBlock b 2)
  else if name = ['S', 'C', 'R', '3'] then some (scrBlock b 3)
  else none

/-- The block index of `NAME[p]`, or of `NAME` (R110). -/
def nameIndex (b : Build) (cs : List Char) : Except AsmError Nat :=
  match splitAtChar '[' cs with
  | [name] => match plainName b (trimChars name) with
    | some n => .ok n
    | none => .error .unknownName
  | [name, sub] =>
    match subscripted b (trimChars name), splitAtChar ']' sub with
    | some first, [p, []] => match number? (trimChars p) with
      | some n => if n < b.P then .ok (first + n) else .error .badSubscript
      | none => .error .badSubscript
    | _, _ => .error .unknownName
  | _ => .error .unknownName

/-- The number a block operand names: a number, or a symbolic name (R109). -/
def operandIndex (b : Build) (cs : List Char) : Except AsmError Nat :=
  match number? cs with
  | some n => .ok n
  | none => nameIndex b cs

/-- A block operand, which must fit 9 bits (R109). `NBLK` and the active bank are the block's to check, not the
assembler's. -/
def blockOperand (b : Build) (cs : List Char) : Except AsmError BlockIdx :=
  match operandIndex b cs with
  | .ok n => if n < 512 then .ok (BitVec.ofNat 9 n) else .error .outOfRange
  | .error e => .error e

/-- A numeric operand below a bound (R111, R112). -/
def numberOperand (bound : Nat) (e : AsmError) (cs : List Char) : Except AsmError Nat :=
  match number? cs with
  | some n => if n < bound then .ok n else .error e
  | none => .error .unknownName

/-- A command or pseudo-instruction line (R109, R112), by its mnemonic and operands; none where the word is no
mnemonic. `LOADTF`, `ZERO` and `MOV` stand for PART, CLEAR and COPY. -/
def commandLine (b : Build) (mn : List Char) (args : List (List Char)) : Option (Except AsmError Instr) :=
  let zeroArg (i : Instr) : Except AsmError Instr :=
    match args with
    | [] => .ok i
    | _ => .error .operandCount
  let oneArg (f : BlockIdx → Instr) : Except AsmError Instr :=
    match args with
    | [x] => do return f (← blockOperand b x)
    | _ => .error .operandCount
  let twoArgs (f : BlockIdx → BlockIdx → Instr) : Except AsmError Instr :=
    match args with
    | [x, y] => do return f (← blockOperand b x) (← blockOperand b y)
    | _ => .error .operandCount
  if mn = ['N', 'O', 'P'] then some (zeroArg .nop)
  else if mn = ['C', 'L', 'E', 'A', 'R'] ∨ mn = ['Z', 'E', 'R', 'O'] then some (oneArg .clear)
  else if mn = ['C', 'O', 'P', 'Y'] ∨ mn = ['M', 'O', 'V'] then some (twoArgs .copy)
  else if mn = ['C', 'M', 'A', 'C'] then
    some (match args with
      | [x, y, z] => do return .cmac (← blockOperand b x) (← blockOperand b y) (← blockOperand b z)
      | _ => .error .operandCount)
  else if mn = ['F', 'F', 'T'] then some (oneArg .fft)
  else if mn = ['I', 'F', 'F', 'T'] then some (oneArg .ifft)
  else if mn = ['P', 'A', 'R', 'T'] then some (twoArgs .part)
  else if mn = ['T', 'I', 'C', 'K'] then some (zeroArg .tick)
  else if mn = ['C', 'O', 'M', 'M', 'I', 'T'] then some (zeroArg .commit)
  else if mn = ['C', 'L', 'R', 'S', 'T', 'A', 'T', 'E'] then some (zeroArg .clrstate)
  else if mn = ['L', 'O', 'A', 'D', 'T', 'F'] then
    some (match args with
      | [k, ch, p, src] => do
        let k ← numberOperand 2 .badSubscript k
        let ch ← numberOperand 2 .badSubscript ch
        let p ← numberOperand b.P .badSubscript p
        return .part (BitVec.ofNat 9 (tfBlock b k ch p)) (← blockOperand b src)
      | _ => .error .operandCount)
  else none

/-- The address and the result's name of `R32 addr -> name`, or of `R32 addr` (R111). -/
def readStmt (arg : List Char) : Except AsmError HostStmt :=
  match splitAtChar '>' arg with
  | [addr] => do return .r32 (← numberOperand (2 ^ 32) .outOfRange (trimChars addr)) []
  | [addr, name] =>
    match addr.reverse with
    | '-' :: front => do
      return .r32 (← numberOperand (2 ^ 32) .outOfRange (trimChars front.reverse)) (trimChars name)
    | _ => .error .unknownName
  | _ => .error .operandCount

/-- A host statement line (R111), by its first word and operands; none where the word names none. -/
def statementLine (mn : List Char) (args : List (List Char)) : Option (Except AsmError HostStmt) :=
  if mn = ['W', 'A', 'I', 'T', 'I', 'D', 'L', 'E'] then
    some (match args with
      | [] => .ok .waitIdle
      | _ => .error .operandCount)
  else if mn = ['W', '3', '2'] then
    some (match args with
      | [addr, v] => do
        let addr ← numberOperand (2 ^ 32) .outOfRange addr
        let v ← numberOperand (2 ^ 32) .outOfRange v
        return .w32 addr (BitVec.ofNat 32 v)
      | _ => .error .operandCount)
  else if mn = ['R', '3', '2'] then
    some (match args with
      | [arg] => readStmt arg
      | _ => .error .operandCount)
  else none

/-- One line of a host program (R109 to R112): a comment or blank line is no statement. -/
def assembleLine (b : Build) (line : List Char) : Except AsmError (Option HostStmt) :=
  let text := trimChars (line.takeWhile (· ≠ ';'))
  if text.isEmpty then .ok none
  else
    let mn := text.takeWhile fun c => !isBlank c
    let rest := trimChars (text.dropWhile fun c => !isBlank c)
    let args := if rest.isEmpty then [] else (splitAtChar ',' rest).map trimChars
    match commandLine b mn args with
    | some (.ok i) => .ok (some (.command (encode i)))
    | some (.error e) => .error e
    | none => match statementLine mn args with
      | some (.ok st) => .ok (some st)
      | some (.error e) => .error e
      | none => .error .unknownMnemonic

/-- The mnemonic of a command (R103). -/
def mnemonicText : Instr → List Char
  | .nop => ['N', 'O', 'P']
  | .clear _ => ['C', 'L', 'E', 'A', 'R']
  | .copy _ _ => ['C', 'O', 'P', 'Y']
  | .cmac _ _ _ => ['C', 'M', 'A', 'C']
  | .fft _ => ['F', 'F', 'T']
  | .ifft _ => ['I', 'F', 'F', 'T']
  | .part _ _ => ['P', 'A', 'R', 'T']
  | .tick => ['T', 'I', 'C', 'K']
  | .commit => ['C', 'O', 'M', 'M', 'I', 'T']
  | .clrstate => ['C', 'L', 'R', 'S', 'T', 'A', 'T', 'E']

/-- Operands in decimal, each after the first with a comma before it (R109). -/
def operandText : List BlockIdx → List Char
  | [] => []
  | [x] => Nat.toDigits 10 x.toNat
  | x :: y :: rest => Nat.toDigits 10 x.toNat ++ [',', ' '] ++ operandText (y :: rest)

/-- The line of a command, its operands as decimal block indices (R109). -/
def commandText (i : Instr) : List Char := mnemonicText i ++ [' '] ++ operandText i.blocks

/-- The statements of the lines of a host program, or the first error. -/
def assemble (b : Build) : List (List Char) → Except AsmError (List HostStmt)
  | [] => .ok []
  | line :: rest => do
    let st ← assembleLine b line
    let more ← assemble b rest
    return st.toList ++ more

end Sys2Proof.Machine
end

