-- ==== Sys2Proof/Machine/HostPrograms.lean ====
section
/-! DEFINITION. The host's own sequences that the spec writes out: loading a filter (R164), one audio period (R206)
and the boot sequence (R254). They are host programs; the block knows none of them.
DESIGN CHOICE: what the host read before, and what the rules leave to it, are arguments (notes/assumptions/21.md). -/

namespace Sys2Proof.Machine

/-- A command line of a host program (R111). -/
def line (i : Instr) : HostStmt := .command (encode i)

/-- Write the `B` samples of one partition into SCR0 and transform it into `TF(k, ch, p)` (R164). `h` holds the
channel's samples as binary32 patterns. DESIGN CHOICE (notes/assumptions/21.md): a sample beyond the end of `h` is
+0.0. -/
def loadPartition (b : Build) (k ch p : Nat) (h : List Word) : List HostStmt :=
  (List.range b.B).map (fun j => .w32 (elmAddr (scrBlock b 0) j) (h.getD (p * b.B + j) 0)) ++
    [line (.part (BitVec.ofNat 9 (tfBlock b k ch p)) (BitVec.ofNat 9 (scrBlock b 0)))]

/-- The partitioner (R164): both channels into the bank that is not active, then COMMIT. -/
def loadFilter (b : Build) (activeBank : Bool) (hL hR : List Word) : List HostStmt :=
  let k := bankNumber (!activeBank)
  (List.range b.P).flatMap (fun p => loadPartition b k 0 p hL) ++
    (List.range b.P).flatMap (fun p => loadPartition b k 1 p hR) ++ [line .commit]

/-- Copy samples into an input buffer, one host word a sample (R206 step 1). -/
def stageBuffer (x : AudioBuf) (xs : List Sample) : List HostStmt :=
  xs.zipIdx.map fun (v, k) => .w32 (audioAddr x k) (v.signExtend 32)

/-- Steps 1 and 2 of one audio period (R206): stage the acquired input blocks, set the flags of the blocks acquired,
issue TICK and wait. R206 lets the host wait for BUSY = 0 or for the DONE interrupt, and `polls` says which. DESIGN
CHOICE (notes/assumptions/21.md): a wait for the interrupt is no statement of the list, so that list ends with the CMD
write and the host goes on with `tickRetire` when `irq` has come; the left block is staged before the right one, and
one write sets all the flags. -/
def tickPeriod (polls : Bool) (inL inR : List Sample) (avail : BitVec 4) : List HostStmt :=
  (if avail.getLsbD 0 then stageBuffer .inL inL else []) ++
    (if avail.getLsbD 1 then stageBuffer .inR inR else []) ++
    [.w32 (regOffset .audioAvail) (avail.setWidth 32),
      if polls then line .tick else .w32 (regOffset .cmd) (encode .tick)]

/-- Read the samples of an output buffer (R206 step 3). -/
def readOut (b : Build) (x : AudioBuf) : List HostStmt :=
  (List.range b.B).map fun k => .r32 (audioAddr x k) []

/-- Steps 3 and 4 of one audio period, by the INT_STATUS the host read (R206): take the output or release the blocks,
and clear what was seen. R206 leaves the write `AUDIO_AVAIL <- 0` after a skip to the host, and `fresh` says whether
the host wants it. DESIGN CHOICE (notes/assumptions/21.md): that write is made here, right after SKIP is cleared, and
the left output is read before the right one. -/
def tickRetire (b : Build) (intStatus : Word) (fresh : Bool) : List HostStmt :=
  (if intStatus.getLsbD 1 then
    readOut b .outL ++ readOut b .outR ++ [.w32 (regOffset .intStatus) 0x02] else []) ++
  (if intStatus.getLsbD 2 then
    .w32 (regOffset .intStatus) 0x04 :: (if fresh then [.w32 (regOffset .audioAvail) 0] else []) else []) ++
  [.w32 (regOffset .intStatus) 0x01]

/-- A write of a register that the host may leave out. -/
def optionalWrite (r : Reg) (v : Option Word) : List HostStmt :=
  v.toList.map fun w => .w32 (regOffset r) w

/-- The boot sequence before the first audio period (R254 steps 1 to 5): wait for INIT, read ID and PARAM, set the
interrupt mask, the gain and the mux, and load the first filter into bank 1. Steps 2 to 4 are optional in R254:
`checks` says whether the host reads ID and PARAM, and each of the three registers is written where a value is given.
DESIGN CHOICE (notes/assumptions/21.md): within a step, ID is read before PARAM and GAIN is written before CTRL, and
the wait of step 1 is WAITIDLE. -/
def bootProgram (b : Build) (checks : Bool) (enable gain ctrl : Option Word) (hL hR : List Word) : List HostStmt :=
  .waitIdle :: (if checks then [.r32 (regOffset .id) [], .r32 (regOffset .param) []] else []) ++
    optionalWrite .intEnable enable ++ optionalWrite .gain gain ++ optionalWrite .ctrl ctrl ++
    loadFilter b false hL hR

end Sys2Proof.Machine
end

