-- ==== Sys2Proof/Machine/Platform.lean ====
section
/-! DEFINITION. A platform with one or more instances of the block, each at its own BASE (R9, R70, R89, R235).
DESIGN CHOICE: notes/assumptions/19.md. -/

namespace Sys2Proof.Machine

/-- One instance: its BASE and its state (R9, R89). -/
structure Placed where
  /-- BASE, the byte address of its window. -/
  base : Nat
  /-- Its own state. -/
  state : State
deriving DecidableEq, Repr

/-- The size of an instance's window, 2 MiB (R70). -/
def windowSize : Nat := 0x200000

/-- The offset of a platform address in the window at `base`, where it lies in it (R70). -/
def windowOffset? (base addr : Nat) : Option Nat :=
  if base ≤ addr ∧ addr < base + windowSize then some (addr - base) else none

/-- A host operation with a platform address, as one instance's window sees it; WAITIDLE names the instance whose
BASE it polls, and the platform's reset reaches every instance (R89, R250). -/
inductive PlatformOp where
  /-- `MemRead` at a platform address. -/
  | read (size addr : Nat)
  /-- `MemWrite` at a platform address. -/
  | write (size addr : Nat) (value : Word)
  /-- WAITIDLE on the instance at `base`. -/
  | waitIdle (base : Nat)
  /-- The platform's reset. -/
  | reset
deriving DecidableEq, Repr

/-- The operation an instance at `base` gets from a platform operation, if any. -/
def opFor? (base : Nat) : PlatformOp → Option HostOp
  | .read size addr => (windowOffset? base addr).map (HostOp.read size)
  | .write size addr value => (windowOffset? base addr).map (fun a => HostOp.write size a value)
  | .waitIdle x => if x = base then some .waitIdle else none
  | .reset => some .reset

/-- Hand a platform operation to the instances it reaches: no access to one changes another (R89). -/
def deliver (op : PlatformOp) (ps : List Placed) : List Placed :=
  ps.map fun p =>
    match opFor? p.base op with
    | some o => { p with state := { p.state with host := p.state.host ++ [o] } }
    | none => p

/-- One step of instance `k`; the others keep their state (R89). None where there is no such instance, or its step
is not a next state. -/
def platformStep (k : Nat) (ps : List Placed) : Option (List Placed) :=
  match ps[k]? with
  | none => none
  | some p => match step p.state with
    | .next t => some (ps.set k { p with state := t })
    | .fault _ => none
    | .refused _ => none

end Sys2Proof.Machine
end

