-- ==== Sys2Proof/Safety.lean ====
section
/-! DEFINITION. What a sound state is: the invariants the spec states (R55, R58, R221), the canonical form of the
memory, and a pending command that the issue rule could have accepted. A sound state's step never stops. -/

namespace Sys2Proof.Machine

/-- R58: `0 ≤ CURSOR.INDEX < P`. -/
def cursorInRange (s : State) : Bool := decide (s.cursor.toNat < s.build.P)

/-- R58: INIT = 1 implies BUSY = 1. -/
def initIsBusy (s : State) : Bool := !s.init || s.busy

/-- R58: ERR = 0 implies ERR_CODE = 0 and ERR_CMD = 0. -/
def errorRecordSound (s : State) : Bool := errFlag s.intStatus || (s.errCode == 0 && s.errCmd == 0)

/-- R221: ERR_CODE is one of the codes 0x00 to 0x05. -/
def errorCodeLegal (s : State) : Bool := decide (s.errCode.toNat ≤ 5)

/-- R55: `pending ≠ none` exactly when BUSY = 1 outside INIT, and nothing is pending during INIT (R250). -/
def pendingMatchesBusy (s : State) : Bool :=
  if s.init then s.pending.isNone else s.pending.isSome == s.busy

/-- R36, R250, R251: bank 0 is active while INIT runs. -/
def initBankZero (s : State) : Bool := !s.init || !s.activeBank

/-- A pending word is a command whose operand checks hold in this state: R222 could have accepted it. -/
def pendingAcceptable (s : State) : Bool :=
  match s.pending with
  | none => true
  | some c => match decode c with
    | .error _ => false
    | .ok i => (operandError s.build s.activeBank i).isNone

/-- A sound state. -/
def State.sound (s : State) : Bool :=
  cursorInRange s && initIsBusy s && errorRecordSound s && errorCodeLegal s && pendingMatchesBusy s &&
    initBankZero s && pendingAcceptable s && s.mem.wf

/-- The word a byte address lies in is storage: a sample or a word of an implemented block (R70). -/
def storageAt (b : Build) (a : Nat) : Bool :=
  match targetAt? b (a / 4 * 4) with
  | some (.audio _ _) => true
  | some (.elm _ _) => true
  | some (.reg _) => false
  | none => false

/-- Every byte the memory lists is a byte of storage that R70 maps. -/
def State.storageOnly (s : State) : Bool := s.mem.all fun c => storageAt s.build c.1

/-- The step of a state is a next state. -/
def State.steps (s : State) : Prop := ∃ t, step s = .next t

/-- The word at word `w` of block `b`, as the engine and the host read it. -/
def elmWord (s : State) (b w : Nat) : Word := readWord s.mem (elmAddr b w)

/-- Sample `k` of an audio buffer. -/
def sampleAt (s : State) (x : AudioBuf) (k : Nat) : Sample := readSample s.mem (audioAddr x k)

/-- Address `a` is a byte of the `n` words from word 0 of block `b` on. -/
def inBlockWords (b n a : Nat) : Bool := decide (elmAddr b 0 ≤ a) && decide (a < elmAddr b 0 + 4 * n)

/-- Address `a` is a byte of an audio buffer. -/
def inBuffer (bd : Build) (x : AudioBuf) (a : Nat) : Bool :=
  decide (audioAddr x 0 ≤ a) && decide (a < audioAddr x 0 + 4 * bd.B)

end Sys2Proof.Machine
end

