-- ==== Sys2Proof/Certificates/Slice0/Obligations.lean ====
section
/-! DEFINITION. The statements for the provers, each from the rules of spec/ its docstring names. Where a statement
says what a command leaves alone, the next state is written as the old one with the named fields replaced, and the
memory frame is said byte by byte. -/

open Sys2Proof Sys2Proof.Machine

/-! ## Encoding -/

/-- R103: a word decodes to a command exactly when it is that command's word, for every command with every value of
its operands; so decoding an encoding gives the command back, and no bit of a word is dropped. -/
def Obligations.DecodeAndEncodeAgree : Prop :=
  ∀ (c : Word) (i : Instr), decode c = .ok i ↔ encode i = c

/-- R104: for each row `(OP, match, mask)` of the table, a word is that row's command exactly when
`c & mask = match`; a word with a defined OP that matches no row, and no other word, is rejected by R106. -/
def Obligations.WordIsACommandExactlyWhenItMatchesItsRow : Prop :=
  let rows : List (Nat × Word × Word) :=
    [(0x00, 0x00000000, 0xFFFFFFFF), (0x01, 0x08000000, 0xFFFFFE00), (0x02, 0x10000000, 0xFFFC0000),
      (0x03, 0x18000000, 0xF8000000), (0x04, 0x20000000, 0xFFFFFE00), (0x05, 0x28000000, 0xFFFFFE00),
      (0x06, 0x30000000, 0xFFFC0000), (0x07, 0x38000000, 0xFFFFFFFF), (0x08, 0x40000000, 0xFFFFFFFF),
      (0x09, 0x48000000, 0xFFFFFFFF)]
  ∀ c : Word,
    (∀ op m k, (op, m, k) ∈ rows → (c &&& k = m ↔ ∃ i, decode c = .ok i ∧ fieldOp (encode i) = op)) ∧
    (decode c = .error .reservedField ↔
      (c.extractLsb' 27 5).toNat ≤ 0x09 ∧ ∀ op m k, (op, m, k) ∈ rows → c &&& k ≠ m)

/-- The words of the spec's worked examples, as words and as their four little-endian bytes (R73). -/
def Obligations.ExampleWordsDecodeAsTheSpecWritesThem : Prop :=
  decode 0x00000000 = .ok .nop ∧ decode 0x08000144 = .ok (.clear 0x144) ∧
  decode 0x10028945 = .ok (.copy 0x145 0x144) ∧ decode 0x1D168947 = .ok (.cmac 0x147 0x144 0x145) ∧
  decode 0x20000144 = .ok (.fft 0x144) ∧ decode 0x28000147 = .ok (.ifft 0x147) ∧
  decode 0x30028880 = .ok (.part 0x080 0x144) ∧ decode 0x38000000 = .ok .tick ∧
  decode 0x40000000 = .ok .commit ∧ decode 0x48000000 = .ok .clrstate ∧
  decode 0x50000000 = .error .illegalOpcode ∧ decode 0x38000001 = .error .reservedField ∧
  decodeBytes [0x45, 0x89, 0x02, 0x10] = .ok (.copy 0x145 0x144)

/-! ## The step -/

/-- When it is the engine's turn and the pending word decodes to a command, the step is that command's meaning at
this state (R59), and nothing is added around it. When it is the engine's turn is the model's schedule
(notes/assumptions/7.md). -/
def Obligations.StepRunsTheDecodedPendingCommand : Prop :=
  ∀ (s : State) (c : Word) (i : Instr), engineTurn s = true → s.init = false → s.pending = some c →
    decode c = .ok i → step s = exec i s

/-- The model's own `withFetchWord` (notes/assumptions/5.md): a table word placed pending is the command the very
next step runs. -/
def Obligations.PlacedWordIsRunByTheNextStep : Prop :=
  ∀ (s : State) (w : Nat) (i : Instr), decodeTableWord 32 w = some i →
    step (s.withFetchWord 32 w) = exec i (s.withFetchWord 32 w)

/-- R237 and R262: with nothing pending and no INIT the engine does nothing, and a host with no operation left
changes nothing; and while a pending command waits, the host's next operation goes. The count of host operations in
`wait` is the model's (notes/assumptions/7.md). -/
def Obligations.EngineIsIdleWithoutWork : Prop :=
  (∀ s : State, s.init = false → s.pending = none → s.host = [] → step s = .next s) ∧
  (∀ (s : State) (op : HostOp) (rest : List HostOp), s.init = false → s.pending = none → s.host = op :: rest →
    step s = .next (hostOp op { s with host := rest })) ∧
  (∀ (s : State) (op : HostOp) (rest : List HostOp) (n : Nat), s.pending.isSome = true → s.host = op :: rest →
    s.wait = some (n + 1) → step s = .next (hostOp op { s with host := rest, wait := some n }))

/-! ## Issuing a command -/

/-- R222, with R105, R106 and R107: the checks of a word written to CMD in their order, read off the word's bits;
the first that fails records its error, and a word that passes them all is pending with BUSY 1. -/
def Obligations.CmdWriteRunsTheIssueChecksInOrder : Prop :=
  ∀ (s : State) (c : Word),
    let op := (c.extractLsb' 27 5).toNat
    let a := (c.extractLsb' 0 9).toNat
    let bf := (c.extractLsb' 9 9).toNat
    let cc := (c.extractLsb' 18 9).toNat
    let usesA : Bool := decide (1 ≤ op ∧ op ≤ 6)
    let usesB : Bool := decide (op = 2 ∨ op = 3 ∨ op = 6)
    let usesC : Bool := decide (op = 3)
    hostWrite 4 0x010 c s = respond (.write false)
      (if s.busy then recordCmdError .busy c s
      else if 0x0A ≤ op then recordCmdError .illegalOpcode c s
      else if (usesA = false ∧ a ≠ 0) ∨ (usesB = false ∧ bf ≠ 0) ∨ (usesC = false ∧ cc ≠ 0) then
        recordCmdError .reservedField c s
      else if (usesA = true ∧ s.build.numBlocks ≤ a) ∨ (usesB = true ∧ s.build.numBlocks ≤ bf) ∨
          (usesC = true ∧ s.build.numBlocks ≤ cc) then recordCmdError .blockRange c s
      else if usesA = true ∧ inBank s.build s.activeBank a = true then recordCmdError .activeTf c s
      else { s with pending := some c, busy := true, wait := none, draws := s.draws + 1 })

/-- R223 and R224, with the codes of R221: a CMD write that the issue rule rejects changes the error record alone, the
first error kept with its code and a later one only counted in ERR_OVF, and the write itself completes on the bus. -/
def Obligations.RejectedCommandOnlyRecordsItsError : Prop :=
  ∀ (s : State) (c : Word) (e : CmdError), issueError s c = some e →
    let code : BitVec 8 :=
      match e with
      | .busy => 0x01
      | .illegalOpcode => 0x02
      | .reservedField => 0x03
      | .blockRange => 0x04
      | .activeTf => 0x05
    hostWrite 4 0x010 c s =
      if s.intStatus.getLsbD 3 then
        { s with intStatus := s.intStatus ||| 0x10, responses := .write false :: s.responses }
      else
        { s with
          intStatus := s.intStatus ||| 0x08, errCode := code, errCmd := c,
          responses := .write false :: s.responses }

/-- R225: a write to INT_STATUS, busy or not, clears exactly the bits 4:0 that are 1 in it, and with bit 3 the error
record; nothing else changes. -/
def Obligations.WriteOneClearsInterruptStatus : Prop :=
  ∀ (s : State) (v : Word), ∃ flags : BitVec 5,
    (∀ i, i < 5 → flags.getLsbD i = (s.intStatus.getLsbD i && !v.getLsbD i)) ∧
    hostWrite 4 0x01C v s =
      { s with
        intStatus := flags,
        errCode := if v.getLsbD 3 then 0 else s.errCode,
        errCmd := if v.getLsbD 3 then 0 else s.errCmd,
        responses := .write false :: s.responses }

/-- R227: the interrupt output is 1 exactly when some INT_STATUS bit and the INT_ENABLE bit of its position are 1. -/
def Obligations.InterruptOutputIsEnabledStatus : Prop :=
  ∀ s : State, irq s = true ↔ ∃ i, i < 5 ∧ s.intStatus.getLsbD i = true ∧ s.intEnable.getLsbD i = true

/-! ## The host bus -/

/-- R71, R72, R74, R79, R80, R230: an access is refused exactly for one of the five causes; a refused read returns 0
with an error response, a refused write is dropped with one, and no other state changes. -/
def Obligations.RefusedAccessHasNoEffect : Prop :=
  ∀ (s : State) (w : Bool) (size a : Nat) (v : Word),
    (accessTarget s w size a = none ↔
      size ≠ 4 ∨ a % 4 ≠ 0 ∨ targetAt? s.build a = none ∨
        ∃ t, targetAt? s.build a = some t ∧
          ((s.busy = true ∧ busyRefused w t = true) ∨ bankRefused s.build s.activeBank w t = true)) ∧
    (accessTarget s false size a = none → hostRead size a s = { s with responses := .read 0 true :: s.responses }) ∧
    (accessTarget s true size a = none → hostWrite size a v s = { s with responses := .write true :: s.responses })

/-- R70, R74: the offsets that name a register, a sample or a word of a block, and those that are unmapped. That
offsets from 0x200000 on, outside the window, are refused like unmapped ones is the model's choice
(notes/assumptions/10.md), and so is the map at a `B` below 128 (notes/assumptions/2.md). -/
def Obligations.WindowMapIsTheSpecs : Prop :=
  ∀ (b : Build),
    (∀ r : Reg, targetAt? b (regOffset r) = some (.reg r) ∧ regOffset r ≤ 0x034) ∧
    (∀ k : Nat, k < b.B →
      targetAt? b (0x1000 + 4 * k) = some (.audio .inL k) ∧ targetAt? b (0x1200 + 4 * k) = some (.audio .inR k) ∧
        targetAt? b (0x1400 + 4 * k) = some (.audio .outL k) ∧ targetAt? b (0x1600 + 4 * k) = some (.audio .outR k)) ∧
    (∀ blk w : Nat, blk < b.numBlocks → w < b.L → targetAt? b (0x100000 + 0x800 * blk + 4 * w) = some (.elm blk w)) ∧
    (∀ a : Nat, 0x038 ≤ a ∧ a < 0x1000 ∨ 0x1800 ≤ a ∧ a < 0x100000 ∨ 0x100000 + 0x800 * b.numBlocks ≤ a →
      targetAt? b a = none)

/-- R79: while BUSY, every access to the audio buffers and the engine-local memory and every write of CTRL, GAIN and
AUDIO_AVAIL is refused without effect; every register is readable, INT_STATUS and INT_ENABLE are written as usual, a
CMD write is rejected with ERR_BUSY, and a write to a RO register completes and is ignored (R32). That an offset from
0x200000 on, outside the window, is refused is the model's choice (notes/assumptions/10.md). -/
def Obligations.BusyRefusesDataAndConfiguration : Prop :=
  ∀ (s : State) (v : Word) (a : Nat), s.busy = true →
    (0x1000 ≤ a → hostRead 4 a s = { s with responses := .read 0 true :: s.responses } ∧
      hostWrite 4 a v s = { s with responses := .write true :: s.responses }) ∧
    (a = 0x008 ∨ a = 0x018 ∨ a = 0x034 →
      hostWrite 4 a v s = { s with responses := .write true :: s.responses }) ∧
    (∀ r : Reg, hostRead 4 (regOffset r) s = { s with responses := .read (readReg s r) false :: s.responses }) ∧
    hostWrite 4 0x01C v s = respond (.write false) (clearIntStatus v s) ∧
    hostWrite 4 0x020 v s =
      { s with intEnable := v.extractLsb' 0 5, responses := .write false :: s.responses } ∧
    hostWrite 4 0x010 v s = respond (.write false) (recordCmdError .busy v s) ∧
    ∀ ro ∈ [0x000, 0x004, 0x00C, 0x014, 0x024, 0x028, 0x02C, 0x030],
      hostWrite 4 ro v s = { s with responses := .write false :: s.responses }

/-- R80: a write to any word of an implemented block of the active bank is refused without effect; a read of it,
while idle, returns the word. -/
def Obligations.ActiveBankIsWriteProtectedOnTheBus : Prop :=
  ∀ (s : State) (ch p w : Nat) (v : Word), ch < 2 → p < s.build.P → w < s.build.L →
    let b := 2 * s.build.P * (if s.activeBank then 1 else 0) + s.build.P * ch + p
    let a := 0x100000 + 0x800 * b + 4 * w
    hostWrite 4 a v s = { s with responses := .write true :: s.responses } ∧
    (s.busy = false → hostRead 4 a s = { s with responses := .read (readWord s.mem a) false :: s.responses })

/-- R77: while idle, a host write to a word of a block outside the active bank stores the pattern unchanged, a read
returns the word, and no byte outside the word and no other state changes. -/
def Obligations.HostMovesElmWordsUnchanged : Prop :=
  ∀ (s : State) (b w : Nat) (v : Word), s.busy = false → b < s.build.numBlocks → w < s.build.L →
    let a := 0x100000 + 0x800 * b + 4 * w
    hostRead 4 a s = { s with responses := .read (elmWord s b w) false :: s.responses } ∧
    (inBank s.build s.activeBank b = false →
      let t := hostWrite 4 a v s
      t = { s with mem := t.mem, responses := .write false :: s.responses } ∧ elmWord t b w = v ∧
        ∀ x, x < a ∨ a + 4 ≤ x → readByte t.mem x = readByte s.mem x)

/-- R76: while idle, a host read of a sample returns it sign-extended, a write stores bits 15:0 and ignores bits
31:16, and no byte outside the sample and no other state changes. -/
def Obligations.HostMovesSamplesSignExtended : Prop :=
  ∀ (s : State) (x : AudioBuf) (k : Nat) (v : Word), s.busy = false → k < s.build.B →
    let a := (match x with | .inL => 0x1000 | .inR => 0x1200 | .outL => 0x1400 | .outR => 0x1600) + 4 * k
    let t := hostWrite 4 a v s
    hostRead 4 a s = { s with responses := .read ((sampleAt s x k).signExtend 32) false :: s.responses } ∧
    t = { s with mem := t.mem, responses := .write false :: s.responses } ∧
      sampleAt t x k = v.extractLsb' 0 16 ∧
      ∀ y, y < a ∨ a + 2 ≤ y → readByte t.mem y = readByte s.mem y

/-- R32 to R46: what each register's read returns, bit by bit where it has fields; a read has no other effect. -/
def Obligations.RegisterReadsReturnTheirFields : Prop :=
  ∀ (s : State), ∃ param ctrl status : Word,
    (param.extractLsb' 0 8).toNat = s.build.P ∧ (param.extractLsb' 8 4).toNat = s.build.log2B ∧
      param.extractLsb' 12 12 = 0 ∧ param.extractLsb' 24 8 = 0x01 ∧
    ctrl.getLsbD 0 = s.passthru ∧ ctrl.extractLsb' 1 31 = 0 ∧
    status.getLsbD 0 = s.busy ∧ status.getLsbD 1 = s.activeBank ∧ status.getLsbD 2 = s.init ∧
      status.extractLsb' 3 29 = 0 ∧
    ∀ a d, (a, d) ∈ [(0x000, (0x41555231 : Word)), (0x004, param), (0x008, ctrl), (0x00C, status), (0x010, 0),
        (0x014, s.cursor.setWidth 32), (0x018, s.gain), (0x01C, s.intStatus.setWidth 32),
        (0x020, s.intEnable.setWidth 32), (0x024, s.errCode.setWidth 32), (0x028, s.errCmd), (0x02C, s.tickCount),
        (0x030, s.skipCount), (0x034, s.audioAvail.setWidth 32)] →
      hostRead 4 a s = { s with responses := .read d false :: s.responses }

/-- R32, R35, R39, R41, R46: while idle, a register write stores the implemented bits of a RW register and is ignored
by a RO register. -/
def Obligations.RegisterWritesStoreImplementedBits : Prop :=
  ∀ (s : State) (v : Word), s.busy = false →
    hostWrite 4 0x008 v s = { s with passthru := v.getLsbD 0, responses := .write false :: s.responses } ∧
    hostWrite 4 0x018 v s = { s with gain := v, responses := .write false :: s.responses } ∧
    hostWrite 4 0x020 v s = { s with intEnable := v.extractLsb' 0 5, responses := .write false :: s.responses } ∧
    hostWrite 4 0x034 v s = { s with audioAvail := v.extractLsb' 0 4, responses := .write false :: s.responses } ∧
    ∀ a ∈ [0x000, 0x004, 0x00C, 0x014, 0x024, 0x028, 0x02C, 0x030],
      hostWrite 4 a v s = { s with responses := .write false :: s.responses }

/-- R82, R256, R257: while a command is pending, no host operation but the platform's reset changes a memory, a
register other than INT_STATUS, INT_ENABLE, ERR_CODE and ERR_CMD, or the pending command. -/
def Obligations.HostSeesNoPartialCommand : Prop :=
  ∀ (s : State) (op : HostOp) (rest : List HostOp), s.busy = true → s.host = op :: rest → op ≠ .reset →
    let t := hostStep s
    t = { s with
      intStatus := t.intStatus, intEnable := t.intEnable, errCode := t.errCode, errCmd := t.errCmd, host := t.host,
      responses := t.responses, wait := t.wait }

/-! ## Reset and INIT -/

/-- R32, R36, R250: what the reset column gives, with INIT under way and nothing pending. The empty memory, the host
list and the model's own fields are the model's choice (notes/assumptions/3.md, 6.md). -/
def Obligations.ResetColumnHolds : Prop :=
  let s := State.reset
  readReg s .id = 0x41555231 ∧ readReg s .param = 0x01000740 ∧ readReg s .ctrl = 0 ∧ readReg s .status = 0x5 ∧
  readReg s .cmd = 0 ∧ readReg s .cursor = 0 ∧ readReg s .gain = 0x3F800000 ∧ readReg s .intStatus = 0 ∧
  readReg s .intEnable = 0 ∧ readReg s .errCode = 0 ∧ readReg s .errCmd = 0 ∧ readReg s .tickCount = 0 ∧
  readReg s .skipCount = 0 ∧ readReg s .audioAvail = 0 ∧ s.pending = none ∧ irq s = false

/-- R251: the end of INIT leaves every word of every block and every sample 0 and STATUS 0, and no other register
changed. -/
def Obligations.InitEndsWithZeroMemoriesAndStatus : Prop :=
  ∀ s : State, s.init = true → engineTurn s = true →
    ∃ t, step s = .next t ∧ readReg t .status = 0 ∧
      (∀ b w, b < s.build.numBlocks → w < s.build.L → elmWord t b w = 0) ∧
      (∀ x k, k < s.build.B → sampleAt t x k = 0) ∧
      t = { s with mem := t.mem, busy := false, activeBank := false, init := false, wait := none }

/-- R250: the platform's reset abandons a pending command and sets every register to its reset value, at any
moment. That the memories keep their contents until INIT ends is the model's choice (notes/assumptions/6.md). -/
def Obligations.PlatformResetAbandonsThePendingCommand : Prop :=
  ∀ (s : State) (rest : List HostOp), s.host = .reset :: rest →
    hostStep s =
      { State.reset with
        build := s.build, mem := s.mem, host := rest, responses := s.responses, draws := s.draws + 1 }

/-! ## Invariants and whole-machine rules -/

/-- The reset state is sound: R55, R58 and the model's canonical memory hold in it. -/
def Obligations.ResetStateIsSound : Prop := State.reset.sound = true ∧ State.reset.storageOnly = true

/-- R55, R58 and R221: every step from a sound state leads to a sound state. Besides the invariants of those rules,
a sound state has the model's canonical memory, and its pending word is one that R222 accepts there. -/
def Obligations.EveryStepKeepsSoundness : Prop :=
  ∀ s t : State, s.sound = true → step s = .next t → t.sound = true

/-- R220: a sound state has a next state; no error and no arithmetic result stops the block. -/
def Obligations.SoundStateAlwaysSteps : Prop := ∀ s : State, s.sound = true → s.steps

/-- R70, R78: no step stores a byte outside the samples and the words of implemented blocks. -/
def Obligations.EveryStepStoresOnlyInMappedStorage : Prop :=
  ∀ s t : State, s.storageOnly = true → step s = .next t → t.storageOnly = true

/-- R80, R163, R165: outside INIT no step, of either agent, changes a byte of the bank that is active before it. That
this holds of the step of the platform's reset too is the model's choice (notes/assumptions/6.md), since the spec
leaves the memories at any value from then to the end of INIT. -/
def Obligations.NoStepChangesTheActiveBank : Prop :=
  ∀ (s t : State) (ch p a : Nat), s.init = false → step s = .next t → ch < 2 → p < s.build.P →
    inBlockWords (tfBlock s.build (bankNumber s.activeBank) ch p) 512 a = true →
    readByte t.mem a = readByte s.mem a

/-- R162, R165: outside INIT and the platform's reset, only COMMIT changes which bank is active. -/
def Obligations.OnlyCommitSwapsTheBanks : Prop :=
  ∀ s t : State, s.init = false → s.host.head? ≠ some .reset → step s = .next t →
    t.activeBank ≠ s.activeBank → s.pending = some 0x40000000 ∧ t.activeBank = !s.activeBank

/-- R86, R262: a pending command is performed after finitely many steps, unless the platform resets the block first.
The bound, as many steps as its latency has host operations left, is the model's (notes/assumptions/7.md). -/
def Obligations.PendingCommandIsPerformedWithinItsLatency : Prop :=
  ∀ (s : State) (c : Word), s.sound = true → s.pending = some c → HostOp.reset ∉ s.host →
    ∃ (k : Nat) (u t : State) (i : Instr), k ≤ remaining s ∧ Sys2Proof.core.run k s = .next u ∧
      u.pending = some c ∧ decode c = .ok i ∧ step u = exec i u ∧ exec i u = .next t ∧
      t.pending = none ∧ t.busy = false ∧ t.intStatus.getLsbD 0 = true

/-- R205: a TICK increments exactly one of the two counters, by 1 modulo 2^32, and no other command changes one. -/
def Obligations.EachTickCountsOnce : Prop :=
  ∀ (i : Instr) (s t : State), exec i s = .next t →
    if i = .tick then
      (t.tickCount = s.tickCount + 1 ∧ t.skipCount = s.skipCount) ∨
        (t.tickCount = s.tickCount ∧ t.skipCount = s.skipCount + 1)
    else t.tickCount = s.tickCount ∧ t.skipCount = s.skipCount

/-- R48 to R53: the block map and the host addresses of its words (R77); R163: the active bank's blocks are
`TF(a, ch, p)` for both channels and every partition, and no others. -/
def Obligations.BlockMapIsTheSpecs : Prop :=
  ∀ (b : Build),
    b.numBlocks = 5 * b.P + 8 ∧ winBlock b = 5 * b.P ∧ acclBlock b = 5 * b.P + 1 ∧ accrBlock b = 5 * b.P + 2 ∧
    ovlBlock b = 5 * b.P + 3 ∧ (∀ j, scrBlock b j = 5 * b.P + 4 + j) ∧ (∀ i, fdlBlock b i = 4 * b.P + i) ∧
    (∀ (bank : Bool) (ch p : Nat),
      tfBlock b (bankNumber bank) ch p = 2 * b.P * (if bank then 1 else 0) + b.P * ch + p) ∧
    (∀ x w, elmAddr x w = 0x100000 + 0x800 * x + 4 * w) ∧
    ∀ (bank : Bool) (x : Nat),
      inBank b bank x = true ↔ ∃ ch p, ch < 2 ∧ p < b.P ∧ x = 2 * b.P * (if bank then 1 else 0) + b.P * ch + p

/-! ## The commands -/

/-- R121: NOP completes, sets DONE, and changes nothing else. -/
def Obligations.NopOnlyCompletes : Prop :=
  ∀ s : State, exec .nop s =
    .next { s with pending := none, busy := false, wait := none, intStatus := s.intStatus ||| 0x01 }

/-- R122: CLEAR stores +0.0 in every word of its block, sets DONE, and changes nothing else. -/
def Obligations.ClearZeroesItsBlock : Prop :=
  ∀ (s : State) (dst : BlockIdx), dst.toNat < s.build.numBlocks → inBank s.build s.activeBank dst.toNat = false →
    ∃ t, exec (.clear dst) s = .next t ∧
      t = { s with
        mem := t.mem, pending := none, busy := false, wait := none, intStatus := s.intStatus ||| 0x01 } ∧
      (∀ w, w < s.build.L → elmWord t dst.toNat w = 0x00000000) ∧
      ∀ a, inBlockWords dst.toNat s.build.L a = false → readByte t.mem a = readByte s.mem a

/-- R123: COPY moves the patterns of its source unchanged, sets DONE, and changes nothing else. -/
def Obligations.CopyMovesPatternsUnchanged : Prop :=
  ∀ (s : State) (dst src : BlockIdx), dst.toNat < s.build.numBlocks → src.toNat < s.build.numBlocks →
    inBank s.build s.activeBank dst.toNat = false →
    ∃ t, exec (.copy dst src) s = .next t ∧
      t = { s with
        mem := t.mem, pending := none, busy := false, wait := none, intStatus := s.intStatus ||| 0x01 } ∧
      (∀ w, w < s.build.L → elmWord t dst.toNat w = elmWord s src.toNat w) ∧
      ∀ a, inBlockWords dst.toNat s.build.L a = false → readByte t.mem a = readByte s.mem a

/-- R124: CMAC adds to each bin of its accumulator the product of the two sources' bins, each of the eight
operations rounded in the order of the rule, whatever operands coincide; it sets DONE and changes nothing else. -/
def Obligations.CmacAccumulatesEachBin : Prop :=
  ∀ (s : State) (acc a b : BlockIdx), acc.toNat < s.build.numBlocks → a.toNat < s.build.numBlocks →
    b.toNat < s.build.numBlocks → inBank s.build s.activeBank acc.toNat = false →
    ∃ t, exec (.cmac acc a b) s = .next t ∧
      t = { s with
        mem := t.mem, pending := none, busy := false, wait := none, intStatus := s.intStatus ||| 0x01 } ∧
      (∀ k, k < s.build.N →
        let ar := elmWord s a.toNat (2 * k)
        let ai := elmWord s a.toNat (2 * k + 1)
        let br := elmWord s b.toNat (2 * k)
        let bi := elmWord s b.toNat (2 * k + 1)
        elmWord t acc.toNat (2 * k)
            = fadd (elmWord s acc.toNat (2 * k)) (fsub (fmul ar br) (fmul ai bi)) ∧
          elmWord t acc.toNat (2 * k + 1)
            = fadd (elmWord s acc.toNat (2 * k + 1)) (fadd (fmul ar bi) (fmul ai br))) ∧
      ∀ x, inBlockWords acc.toNat s.build.L x = false → readByte t.mem x = readByte s.mem x

/-- R124, corner cases: the order of the two sources does not matter, bit for bit. -/
def Obligations.CmacSourcesCommute : Prop :=
  ∀ (s : State) (acc a b : BlockIdx), acc.toNat < s.build.numBlocks → a.toNat < s.build.numBlocks →
    b.toNat < s.build.numBlocks → inBank s.build s.activeBank acc.toNat = false →
    exec (.cmac acc a b) s = exec (.cmac acc b a) s

/-- R145: a transform is the load, then stages 1 to `log2 N` in order, each on what the one before left, then the
scaling, which multiplies by exactly `1/N` (0x3B800000 at `N = 256`) and is the inverse's alone. R146, R147: FFT and
IFFT replace their block by its transform in their direction, set DONE, and change nothing else. -/
def Obligations.TransformCommandsReplaceTheirBlock : Prop :=
  (∀ g : Nat, 1 ≤ g → g ≤ 8 → ∃ (scale : Word) (sig exp : Nat),
    classify scale = .finite false sig exp ∧ ((sig : ℚ) * 2 ^ exp / 2 ^ 149 = 1 / 2 ^ g) ∧
    (g = 8 → scale = 0x3B800000) ∧
    ∀ (dir : Dir) (x : List Cplx), ∃ ys : Nat → List Cplx,
      ys 0 = loadReversed g x ∧ (∀ st, st < g → ys (st + 1) = stage dir g (st + 1) (ys st)) ∧
      transform dir g x = match dir with
        | .fwd => ys g
        | .inv => (ys g).map fun z => ⟨fmul z.re scale, fmul z.im scale⟩) ∧
  ∀ (s : State) (blk : BlockIdx) (dir : Dir), blk.toNat < s.build.numBlocks →
    inBank s.build s.activeBank blk.toNat = false →
    ∃ t, exec (match dir with | .fwd => .fft blk | .inv => .ifft blk) s = .next t ∧
      t = { s with
        mem := t.mem, pending := none, busy := false, wait := none, intStatus := s.intStatus ||| 0x01 } ∧
      (∀ k, k < s.build.N →
        readBin t.mem blk.toNat k
          = point (transform dir s.build.log2N ((List.range s.build.N).map (readBin s.mem blk.toNat))) k) ∧
      ∀ a, inBlockWords blk.toNat s.build.L a = false → readByte t.mem a = readByte s.mem a

/-- R161: PART stores the forward transform of `B` zero points followed by the first `B` words of its source as real
points, read before anything is written; it sets DONE and changes nothing else. -/
def Obligations.PartTransformsZeroPaddedSamples : Prop :=
  ∀ (s : State) (dst src : BlockIdx), dst.toNat < s.build.numBlocks → src.toNat < s.build.numBlocks →
    inBank s.build s.activeBank dst.toNat = false →
    let x : List Cplx := (List.range s.build.N).map fun n =>
      if n < s.build.B then ⟨0, 0⟩ else ⟨elmWord s src.toNat (n - s.build.B), 0⟩
    ∃ t, exec (.part dst src) s = .next t ∧
      t = { s with
        mem := t.mem, pending := none, busy := false, wait := none, intStatus := s.intStatus ||| 0x01 } ∧
      (∀ k, k < s.build.N → readBin t.mem dst.toNat k = point (transform .fwd s.build.log2N x) k) ∧
      ∀ a, inBlockWords dst.toNat s.build.L a = false → readByte t.mem a = readByte s.mem a

/-- R162: COMMIT toggles the active bank and clears every FDL slot and OVL; the cursor, the banks and every other
byte and register are unchanged. -/
def Obligations.CommitSwapsBanksAndClearsHistory : Prop :=
  ∀ s : State, ∃ t, exec .commit s = .next t ∧
    t = { s with
      mem := t.mem, activeBank := !s.activeBank, pending := none, busy := false, wait := none,
      intStatus := s.intStatus ||| 0x01 } ∧
    (∀ i w, i < s.build.P → w < s.build.L → elmWord t (fdlBlock s.build i) w = 0x00000000) ∧
    (∀ w, w < s.build.L → elmWord t (ovlBlock s.build) w = 0x00000000) ∧
    ∀ a, (∀ i, i < s.build.P → inBlockWords (fdlBlock s.build i) s.build.L a = false) →
      inBlockWords (ovlBlock s.build) s.build.L a = false → readByte t.mem a = readByte s.mem a

/-- R187: CLRSTATE clears every FDL slot and OVL and sets the cursor to 0; every other byte and register is
unchanged. -/
def Obligations.ClrstateClearsHistoryAndCursor : Prop :=
  ∀ s : State, ∃ t, exec .clrstate s = .next t ∧
    t = { s with
      mem := t.mem, cursor := 0, pending := none, busy := false, wait := none,
      intStatus := s.intStatus ||| 0x01 } ∧
    (∀ i w, i < s.build.P → w < s.build.L → elmWord t (fdlBlock s.build i) w = 0x00000000) ∧
    (∀ w, w < s.build.L → elmWord t (ovlBlock s.build) w = 0x00000000) ∧
    ∀ a, (∀ i, i < s.build.P → inBlockWords (fdlBlock s.build i) s.build.L a = false) →
      inBlockWords (ovlBlock s.build) s.build.L a = false → readByte t.mem a = readByte s.mem a

/-- R203: a TICK with any AUDIO_AVAIL bit 0 completes as a skip: SKIP_COUNT, SKIP and DONE, and nothing else, not
even AUDIO_AVAIL. -/
def Obligations.TickSkipsWithoutAllBuffers : Prop :=
  ∀ s : State, s.audioAvail ≠ 0xF → exec .tick s =
    .next { s with
      skipCount := s.skipCount + 1, intStatus := s.intStatus ||| 0x05, pending := none, busy := false,
      wait := none }

/-- R202, R204: a passthrough TICK copies the input samples bit-exactly to the outputs, clears AUDIO_AVAIL, sets
OUT_READY and DONE and counts; no byte outside the output buffers and no other register changes. -/
def Obligations.PassthroughTickCopiesSamples : Prop :=
  ∀ s : State, s.audioAvail = 0xF → s.passthru = true →
    ∃ t, exec .tick s = .next t ∧
      t = { s with
        mem := t.mem, audioAvail := 0, tickCount := s.tickCount + 1, intStatus := s.intStatus ||| 0x03,
        pending := none, busy := false, wait := none } ∧
      (∀ n, n < s.build.B → sampleAt t .outL n = sampleAt s .inL n ∧ sampleAt t .outR n = sampleAt s .inR n) ∧
      ∀ a, inBuffer s.build .outL a = false → inBuffer s.build .outR a = false →
        readByte t.mem a = readByte s.mem a

/-- R182 to R184, R200, R201, R204: a convolution TICK, every value from the state before it. The window is the
overlap then the current samples, left even and right odd; WIN and the slot at the cursor hold its transform; each
accumulator sums, from +0.0 and in ascending `i`, the window `i` ticks old times partition `i`, and ends inverse
transformed; the outputs are the second half's real and imaginary parts times GAIN; the cursor advances. -/
def Obligations.ConvolutionTickFollowsTheKernel : Prop :=
  ∀ s : State, s.audioAvail = 0xF → s.passthru = false → s.cursor.toNat < s.build.P →
    let bd := s.build
    let c := s.cursor.toNat
    let cur : Nat → Word := fun w => i2f (sampleAt s (if w % 2 = 0 then .inL else .inR) (w / 2))
    let win : List Word := (List.range bd.L).map fun w =>
      if w < 2 * bd.B then elmWord s (ovlBlock bd) w else cur (w - 2 * bd.B)
    let spectrum : List Word := xform bd .fwd win
    let slot : Nat → List Word := fun i =>
      if i = 0 then spectrum else readBlock bd s.mem (fdlBlock bd ((c + bd.P - i) % bd.P))
    let acc : Nat → List Word := fun ch =>
      (List.range bd.P).foldl
        (fun x i => cmacWords x (slot i) (readBlock bd s.mem (tfBlock bd (bankNumber s.activeBank) ch i)))
        (List.replicate bd.L 0)
    let yL : List Word := xform bd .inv (acc 0)
    let yR : List Word := xform bd .inv (acc 1)
    ∃ t, exec .tick s = .next t ∧
      t = { s with
        mem := t.mem, cursor := BitVec.ofNat 8 ((c + 1) % bd.P), audioAvail := 0, tickCount := s.tickCount + 1,
        intStatus := s.intStatus ||| 0x03, pending := none, busy := false, wait := none } ∧
      (∀ w, w < bd.L → elmWord t (winBlock bd) w = spectrum.getD w 0 ∧
        elmWord t (fdlBlock bd c) w = spectrum.getD w 0 ∧
        elmWord t (acclBlock bd) w = yL.getD w 0 ∧ elmWord t (accrBlock bd) w = yR.getD w 0) ∧
      (∀ w, w < 2 * bd.B → elmWord t (ovlBlock bd) w = cur w) ∧
      ∀ n, n < bd.B →
        sampleAt t .outL n = f2i16 (fmul s.gain (yL.getD (2 * (bd.B + n)) 0)) ∧
        sampleAt t .outR n = f2i16 (fmul s.gain (yR.getD (2 * (bd.B + n) + 1) 0))

/-- R182: a convolution TICK stores only in WIN, words 0 to `2B - 1` of OVL, the slot at the cursor, ACCL, ACCR and
the two output buffers. -/
def Obligations.ConvolutionTickStoresOnlyItsBlocks : Prop :=
  ∀ (s : State) (a : Nat), s.audioAvail = 0xF → s.passthru = false → s.cursor.toNat < s.build.P →
    inBlockWords (winBlock s.build) s.build.L a = false →
    inBlockWords (ovlBlock s.build) (2 * s.build.B) a = false →
    inBlockWords (fdlBlock s.build s.cursor.toNat) s.build.L a = false →
    inBlockWords (acclBlock s.build) s.build.L a = false →
    inBlockWords (accrBlock s.build) s.build.L a = false →
    inBuffer s.build .outL a = false → inBuffer s.build .outR a = false →
    ∃ t, exec .tick s = .next t ∧ readByte t.mem a = readByte s.mem a

/-- R180, R188: after a convolution TICK the newest window, the one in WIN, stands in the slot that held the oldest
window before it, and every other window of the delay line is one tick older, its words unchanged. -/
def Obligations.DelayLineAgesByOneTick : Prop :=
  ∀ s : State, s.audioAvail = 0xF → s.passthru = false → s.cursor.toNat < s.build.P →
    let slot : State → Nat → Nat := fun u j => (u.cursor.toNat + s.build.P - 1 - j) % s.build.P
    ∃ t, exec .tick s = .next t ∧ slot t 0 = slot s (s.build.P - 1) ∧
      ∀ w, w < s.build.L →
        elmWord t (fdlBlock s.build (slot t 0)) w = elmWord t (winBlock s.build) w ∧
        ∀ j, 1 ≤ j → j < s.build.P →
          elmWord t (fdlBlock s.build (slot t j)) w = elmWord s (fdlBlock s.build (slot s (j - 1))) w

/-- R188: advancing the cursor `P` times, as `P` convolution ticks do, brings it back to where it was. -/
def Obligations.CursorWrapsAfterAllPartitions : Prop :=
  ∀ (b : Build) (c : BitVec 8), c.toNat < b.P → (nextCursor b)^[b.P] c = c

/-- The model's own choice for a command that the issue rule would not have accepted (notes/assumptions/4.md): its
step rejects it with the error of R222, range before active bank, and none of its effect. -/
def Obligations.CommandWithBadOperandsIsRejected : Prop :=
  ∀ (s : State) (i : Instr) (e : CmdError),
    (e = .blockRange ∧ ∃ b ∈ i.blocks, s.build.numBlocks ≤ b.toNat) ∨
      (e = .activeTf ∧ (∀ b ∈ i.blocks, b.toNat < s.build.numBlocks) ∧
        ∃ d, i.dest? = some d ∧ inBank s.build s.activeBank d.toNat = true) →
    exec i s = .next (recordCmdError e (encode i) { s with pending := none, busy := false, wait := none })

/-! ## Arithmetic -/

/-- R15: `RN32` rounds an exact value to the nearest multiple of its unit, a tie to the even one, and to an infinity
from `2^128` on. -/
def Obligations.Rn32RoundsToNearestEven : Prop :=
  ∀ (neg : Bool) (n k : Nat), 0 < n →
    let q : ℚ := (n : ℚ) / 2 ^ k
    let u : ℚ := (2 : ℚ) ^ (max (Int.log 2 q) (-126) - 23)
    ∃ m : Nat, |q - m * u| ≤ u / 2 ∧ (|q - m * u| = u / 2 → m % 2 = 0) ∧
      if (2 : ℚ) ^ 128 ≤ m * u then rn32 neg n k = infinity neg
      else ∃ sig exp : Nat, classify (rn32 neg n k) = .finite neg sig exp ∧
        (sig : ℚ) * 2 ^ exp / 2 ^ 149 = m * u

/-- R16: every primitive that returns a NaN returns the canonical one. -/
def Obligations.EveryNanResultIsCanonical : Prop :=
  ∀ a b : Word,
    (classify (fadd a b) = .nan → fadd a b = 0x7FC00000) ∧ (classify (fsub a b) = .nan → fsub a b = 0x7FC00000) ∧
    (classify (fmul a b) = .nan → fmul a b = 0x7FC00000) ∧ (classify (fneg a) = .nan → fneg a = 0x7FC00000)

/-- R14, R17, R18: what the parts of a pattern make it; then addition and multiplication, which commute bit for bit:
the canonical NaN for a NaN, for infinities that cancel and for an infinity times zero; an infinity otherwise; a zero
of the stated sign where the exact result is 0; and else `RN32` of the exact sum or product, its magnitude given as
`n / 2 ^ k`. Negation inverts the sign bit of all but a NaN, and subtraction adds the negation. -/
def Obligations.AddAndMultiplyRoundTheExactResult : Prop :=
  ∀ a b : Word,
    let e := (a.extractLsb' 23 8).toNat
    let f := (a.extractLsb' 0 23).toNat
    let value : Bool → Nat → Nat → ℚ := fun neg sig exp => (if neg then -1 else 1) * (sig : ℚ) * 2 ^ exp / 2 ^ 149
    (e = 255 → f ≠ 0 → classify a = .nan) ∧
    (e = 255 → f = 0 → classify a = .inf (a.getLsbD 31)) ∧
    (e ≠ 255 → ∃ sig exp, classify a = .finite (a.getLsbD 31) sig exp ∧
      (sig : ℚ) * 2 ^ exp / 2 ^ 149
        = if e = 0 then (f : ℚ) / 2 ^ 149 else ((2 ^ 23 + f : Nat) : ℚ) * (2 : ℚ) ^ ((e : Int) - 150)) ∧
    fadd a b = fadd b a ∧ fmul a b = fmul b a ∧ fsub a b = fadd a (fneg b) ∧
    fneg a = (if classify a = .nan then 0x7FC00000 else a ^^^ 0x80000000) ∧
    (classify a = .nan → fadd a b = 0x7FC00000 ∧ fmul a b = 0x7FC00000) ∧
    (∀ neg, classify a = .inf neg → classify b ≠ .nan →
      fadd a b = (if classify b = .inf (!neg) then 0x7FC00000 else a) ∧
      fmul a b = (if b = 0x00000000 ∨ b = 0x80000000 then 0x7FC00000
        else if neg = b.getLsbD 31 then 0x7F800000 else 0xFF800000)) ∧
    ∀ (na : Bool) (sa ea : Nat) (nb : Bool) (sb eb : Nat),
      classify a = .finite na sa ea → classify b = .finite nb sb eb →
      let x := value na sa ea
      let y := value nb sb eb
      (x + y = 0 → fadd a b = if a = 0x80000000 ∧ b = 0x80000000 then 0x80000000 else 0x00000000) ∧
      (x + y ≠ 0 → ∃ n k : Nat, (n : ℚ) / 2 ^ k = |x + y| ∧ fadd a b = rn32 (decide (x + y < 0)) n k) ∧
      (x * y = 0 → fmul a b = if na = nb then 0x00000000 else 0x80000000) ∧
      (x * y ≠ 0 → ∃ n k : Nat, (n : ℚ) / 2 ^ k = |x * y| ∧ fmul a b = rn32 (decide (x * y < 0)) n k)

/-- R20: `i2f` gives the binary32 value equal to the integer, and +0 for 0. -/
def Obligations.SampleConversionIsExact : Prop :=
  i2f 0 = 0x00000000 ∧
  ∀ s : Sample, ∃ (neg : Bool) (sig exp : Nat), classify (i2f s) = .finite neg sig exp ∧
    ((if neg then -1 else 1) * (sig : ℚ) * 2 ^ exp / 2 ^ 149 : ℚ) = s.toInt

/-- R21: `f2i16` rounds a finite value to the nearest integer, ties to even, and saturates; a NaN gives 0 and an
infinity the end of the range. -/
def Obligations.OutputConversionRoundsAndSaturates : Prop :=
  ∀ v : Word, match classify v with
    | .nan => (f2i16 v).toInt = 0
    | .inf neg => (f2i16 v).toInt = if neg then -32768 else 32767
    | .finite neg sig exp =>
      let x : ℚ := (if neg then -1 else 1) * (sig : ℚ) * 2 ^ exp / 2 ^ 149
      ∃ r : Int, |x - r| ≤ 1 / 2 ∧ (|x - r| = 1 / 2 → r % 2 = 0) ∧
        (f2i16 v).toInt = min 32767 (max (-32768) r)

/-- R21: a sample converted and converted back is itself. -/
def Obligations.SampleRoundTripIsIdentity : Prop := ∀ s : Sample, f2i16 (i2f s) = s

/-! ## Transforms -/

/-- R142: bit `j` of `revG(n)` is bit `G - 1 - j` of `n`; the three values the rule names. -/
def Obligations.BitReversalReadsBackwards : Prop :=
  (∀ g n j : Nat, n < 2 ^ g → j < g → (bitRev g n).testBit j = n.testBit (g - 1 - j)) ∧
  (∀ g n : Nat, bitRev g n < 2 ^ g) ∧ bitRev 8 1 = 128 ∧ bitRev 8 3 = 192 ∧ bitRev 8 0x0F = 0xF0

/-- R145, load: element `rev(n)` of the engine's sequence is point `n` of the input. -/
def Obligations.LoadIsBitReversed : Prop :=
  ∀ (g n : Nat) (x : List Cplx), n < 2 ^ g → point (loadReversed g x) (bitRev g n) = point x n

/-- R143, R144, R145: after a stage, the two elements of each of its butterflies are the butterfly of the direction, at
its twiddle index, of the two elements as they were before the stage: the lower one multiplied by the twiddle or by its
conjugate, then added to the upper one and subtracted from it, each of the ten operations rounded. So every butterfly
reads only values of the previous stage. -/
def Obligations.StageAppliesEachButterflyToThePreviousStage : Prop :=
  ∀ (dir : Dir) (g st q j : Nat) (y : List Cplx), 1 ≤ st → st ≤ g → y.length = 2 ^ g → q < 2 ^ (g - st) →
    j < 2 ^ (st - 1) →
    let base := q * 2 ^ st
    let h := 2 ^ (st - 1)
    let c := twc g (j * 2 ^ (g - st))
    let s := tws g (j * 2 ^ (g - st))
    let a := point y (base + j)
    let b := point y (base + j + h)
    let t : Cplx := match dir with
      | .fwd => ⟨fadd (fmul b.re c) (fmul b.im s), fsub (fmul b.im c) (fmul b.re s)⟩
      | .inv => ⟨fsub (fmul b.re c) (fmul b.im s), fadd (fmul b.im c) (fmul b.re s)⟩
    point (stage dir g st y) (base + j) = ⟨fadd a.re t.re, fadd a.im t.im⟩ ∧
      point (stage dir g st y) (base + j + h) = ⟨fsub a.re t.re, fsub a.im t.im⟩

/-- R148 item 5: the transform of zeros is zeros, in both directions. -/
def Obligations.TransformOfZerosIsZeros : Prop :=
  ∀ (dir : Dir) (g : Nat), 1 ≤ g → g ≤ 8 →
    transform dir g (List.replicate (2 ^ g) ⟨0, 0⟩) = List.replicate (2 ^ g) ⟨0, 0⟩

/-- R141: the twiddle ROM at `N = 256`, by the spec's table of `TWC[1]` to `TWC[63]`, its two exact entries and its
symmetries, and at a smaller `N` its entries `256/N` apart (notes/assumptions/20.md). R148 items 1 to 4: the forward
transforms of the unit impulses at points 0, `N/2` and 1 and of the constant 1; the impulse at point 1 gives the ROM. -/
def Obligations.TwiddleRomAndImpulseTransforms : Prop :=
  (twc 8 0 = 0x3F800000 ∧ tws 8 0 = 0x00000000 ∧ twc 8 64 = 0x00000000 ∧ tws 8 64 = 0x3F800000 ∧
    (List.range 63).map (fun i => twc 8 (i + 1)) =
      [ 0x3F7FEC43, 0x3F7FB10F, 0x3F7F4E6D, 0x3F7EC46D, 0x3F7E1324, 0x3F7D3AAC, 0x3F7C3B28, 0x3F7B14BE,
        0x3F79C79D, 0x3F7853F8, 0x3F76BA07, 0x3F74FA0B, 0x3F731447, 0x3F710908, 0x3F6ED89E, 0x3F6C835E,
        0x3F6A09A7, 0x3F676BD8, 0x3F64AA59, 0x3F61C598, 0x3F5EBE05, 0x3F5B941A, 0x3F584853, 0x3F54DB31,
        0x3F514D3D, 0x3F4D9F02, 0x3F49D112, 0x3F45E403, 0x3F41D870, 0x3F3DAEF9, 0x3F396842, 0x3F3504F3,
        0x3F3085BB, 0x3F2BEB4A, 0x3F273656, 0x3F226799, 0x3F1D7FD1, 0x3F187FC0, 0x3F13682A, 0x3F0E39DA,
        0x3F08F59B, 0x3F039C3D, 0x3EFC5D27, 0x3EF15AEA, 0x3EE63375, 0x3EDAE880, 0x3ECF7BCA, 0x3EC3EF15,
        0x3EB8442A, 0x3EAC7CD4, 0x3EA09AE5, 0x3E94A031, 0x3E888E93, 0x3E78CFCC, 0x3E605C13, 0x3E47C5C2,
        0x3E2F10A2, 0x3E164083, 0x3DFAB273, 0x3DC8BD36, 0x3D96A905, 0x3D48FB30, 0x3CC90AB0 ] ∧
    (∀ k, 1 ≤ k → k ≤ 63 → tws 8 (64 - k) = twc 8 k ∧ tws 8 (64 + k) = twc 8 k ∧
      twc 8 (128 - k) = twc 8 k ^^^ 0x80000000) ∧
    ∀ g k, 1 ≤ g → g ≤ 8 → k < 2 ^ (g - 1) →
      twc g k = twc 8 (k * 2 ^ (8 - g)) ∧ tws g k = tws 8 (k * 2 ^ (8 - g))) ∧
  ∀ g : Nat, 1 ≤ g → g ≤ 8 →
    let zeros : List Cplx := List.replicate (2 ^ g) ⟨0, 0⟩
    let spike : Nat → List Cplx := fun n => zeros.set n ⟨0x3F800000, 0⟩
    transform .fwd g (spike 0) = List.replicate (2 ^ g) ⟨0x3F800000, 0⟩ ∧
    (∀ k, k < 2 ^ g → point (transform .fwd g (spike (2 ^ (g - 1)))) k
      = if k % 2 = 0 then ⟨0x3F800000, 0⟩ else ⟨0xBF800000, 0⟩) ∧
    transform .fwd g (List.replicate (2 ^ g) ⟨0x3F800000, 0⟩)
      = zeros.set 0 ⟨BitVec.ofNat 32 ((127 + g) * 2 ^ 23), 0⟩ ∧
    point (transform .fwd g (spike 1)) 0 = ⟨0x3F800000, 0⟩ ∧
    ∀ k, 1 ≤ k → k < 2 ^ (g - 1) →
      point (transform .fwd g (spike 1)) k = ⟨twc g k, tws g k ^^^ 0x80000000⟩

/-! ## Platform and assembler -/

/-- R89: a step of one instance leaves every other as it was, and an access reaches only the instance whose window
holds its address. -/
def Obligations.InstancesAreIndependent : Prop :=
  (∀ (k j : Nat) (ps qs : List Placed), platformStep k ps = some qs → j ≠ k → qs[j]? = ps[j]?) ∧
  ∀ (ps : List Placed) (size addr j : Nat) (v : Word) (p : Placed), ps[j]? = some p →
    addr < p.base ∨ p.base + 0x200000 ≤ addr →
    (deliver (.read size addr) ps)[j]? = some p ∧ (deliver (.write size addr v) ps)[j]? = some p

/-- R103, R109, R111: the line of any command, its operands written as decimal block indices, assembles to the
command's word, and stands for the CMD write of that word and WAITIDLE; so does the bare mnemonic of a command without
operands. That the blank which `commandText` writes after such a mnemonic is ignored is the model's choice
(notes/assumptions/15.md). -/
def Obligations.CommandLineAssemblesToItsWord : Prop :=
  ∀ (b : Build) (i : Instr), assembleLine b (commandText i) = .ok (some (.command (encode i))) ∧
    (i.blocks = [] → assembleLine b (mnemonicText i) = .ok (some (.command (encode i)))) ∧
    programOps [.command (encode i)] = [.write 4 0x010 (encode i), .waitIdle]
end

