-- ==== Sys2Proof/Laws/Memory.lean ====
section
/-! SUPPORT. The laws of the byte memory: what a read after a write gives, byte by byte, word by word and block by
block, and that every write keeps the canonical form. -/

namespace Sys2Proof.Machine

@[simp] theorem readByte_nil (a : Nat) : readByte [] a = Memory.unlisted := rfl

@[simp] theorem readByte_cons (x : Nat) (v : Byte) (m : Memory) (a : Nat) :
    readByte ((x, v) :: m) a = if x = a then v else readByte m a := rfl

/-- A memory that lists no entry at an address reads as unlisted there. -/
theorem readByte_of_absent (m : Memory) (a : Nat) (h : ∀ c ∈ m, c.1 ≠ a) : readByte m a = Memory.unlisted := by
  induction m with
  | nil => rfl
  | cons c m ih =>
    obtain ⟨x, v⟩ := c
    rw [readByte_cons, if_neg (h (x, v) (by simp)), ih fun c hc => h c (by simp [hc])]

/-- Entries before the address's own do not matter. -/
theorem readByte_append_left (m n : Memory) (a : Nat) (h : ∀ c ∈ m, c.1 ≠ a) :
    readByte (m ++ n) a = readByte n a := by
  induction m with
  | nil => rfl
  | cons c m ih =>
    obtain ⟨x, v⟩ := c
    rw [List.cons_append, readByte_cons, if_neg (h (x, v) (by simp)), ih fun c hc => h c (by simp [hc])]

/-- Entries after the address's own do not matter. -/
theorem readByte_append_right (m n : Memory) (a : Nat) (h : ∀ c ∈ n, c.1 ≠ a) :
    readByte (m ++ n) a = readByte m a := by
  induction m with
  | nil => rw [List.nil_append, readByte_of_absent n a h, readByte_nil]
  | cons c m ih =>
    obtain ⟨x, v⟩ := c
    rw [List.cons_append, readByte_cons, readByte_cons, ih]

/-- Keeping only some addresses keeps what is read at those. -/
theorem readByte_filter (p : Nat → Bool) (m : Memory) (a : Nat) (h : p a = true) :
    readByte (m.filter fun c => p c.1) a = readByte m a := by
  induction m with
  | nil => rfl
  | cons c m ih =>
    obtain ⟨x, v⟩ := c
    by_cases hx : p x = true
    · rw [List.filter_cons_of_pos (by simpa using hx), readByte_cons, readByte_cons, ih]
    · rw [List.filter_cons_of_neg (by simpa using hx), ih, readByte_cons, if_neg]
      rintro rfl; exact hx h

theorem mem_listed {a : Nat} {bs : List Byte} {c : Host.Cell} (h : c ∈ listed a bs) :
    a ≤ c.1 ∧ c.1 < a + bs.length ∧ c.2 ≠ Memory.unlisted := by
  induction bs generalizing a with
  | nil => simp [listed] at h
  | cons v bs ih =>
    unfold listed at h
    split at h
    · obtain ⟨h1, h2, h3⟩ := ih h
      exact ⟨by omega, by simp only [List.length_cons]; omega, h3⟩
    · rcases List.mem_cons.1 h with rfl | h
      · exact ⟨Nat.le_refl _, by simp only [List.length_cons]; omega, by assumption⟩
      · obtain ⟨h1, h2, h3⟩ := ih h
        exact ⟨by omega, by simp only [List.length_cons]; omega, h3⟩

theorem readByte_listed (a i : Nat) (bs : List Byte) :
    readByte (listed a bs) (a + i) = bs.getD i Memory.unlisted := by
  induction bs generalizing a i with
  | nil => simp [listed]
  | cons v bs ih =>
    have hshift : ∀ j, readByte (listed (a + 1) bs) (a + (j + 1)) = bs.getD j Memory.unlisted := fun j => by
      rw [show a + (j + 1) = a + 1 + j by omega]; exact ih (a + 1) j
    have habsent : readByte (listed (a + 1) bs) (a + 0) = Memory.unlisted :=
      readByte_of_absent _ _ fun c hc => by have := (mem_listed hc).1; omega
    unfold listed
    split
    · next hv => cases i with
      | zero => rw [habsent, hv]; rfl
      | succ j => rw [hshift]; simp
    · cases i with
      | zero => simp
      | succ j => rw [readByte_cons, if_neg (by omega), hshift]; simp

/-- What a byte reads as after a write: the stored byte inside the bytes written, the old byte outside. -/
theorem readByte_writeBytes (m : Memory) (a x : Nat) (bs : List Byte) :
    readByte (writeBytes m a bs) x
      = if a ≤ x ∧ x < a + bs.length then bs.getD (x - a) Memory.unlisted else readByte m x := by
  have hlow : ∀ c ∈ m.filter (fun c => decide (c.1 < a)), c.1 < a := fun c hc => by
    simpa using (List.mem_filter.1 hc).2
  have hhigh : ∀ c ∈ m.filter (fun c => decide (a + bs.length ≤ c.1)), a + bs.length ≤ c.1 := fun c hc => by
    simpa using (List.mem_filter.1 hc).2
  unfold writeBytes
  split
  · next h =>
    rw [readByte_append_right _ _ _ fun c hc => by have := hhigh c hc; omega,
      readByte_append_left _ _ _ fun c hc => by have := hlow c hc; omega]
    have hr := readByte_listed a (x - a) bs
    rwa [show a + (x - a) = x by omega] at hr
  · next h =>
    by_cases hx : x < a
    · rw [readByte_append_right _ _ _ fun c hc => by have := hhigh c hc; omega,
        readByte_append_right _ _ _ fun c hc => by have := (mem_listed hc).1; omega]
      exact readByte_filter (fun y => decide (y < a)) m x (by simpa using hx)
    · rw [List.append_assoc, readByte_append_left _ _ _ fun c hc => by have := hlow c hc; omega,
        readByte_append_left _ _ _ fun c hc => by have := (mem_listed hc).2.1; omega]
      exact readByte_filter (fun y => decide (a + bs.length ≤ y)) m x (by simp; omega)

theorem readByte_writeBytes_outside (m : Memory) (a x : Nat) (bs : List Byte) (h : x < a ∨ a + bs.length ≤ x) :
    readByte (writeBytes m a bs) x = readByte m x := by
  rw [readByte_writeBytes, if_neg (by omega)]

theorem readByte_writeBytes_inside (m : Memory) (a i : Nat) (bs : List Byte) (h : i < bs.length) :
    readByte (writeBytes m a bs) (a + i) = bs.getD i Memory.unlisted := by
  rw [readByte_writeBytes, if_pos (by omega), show a + i - a = i by omega]

/-- The canonical form, as a bound on the entries and their order. -/
theorem wfFrom_iff (lo : Nat) (m : Memory) :
    Memory.wfFrom lo m = true
      ↔ (∀ c ∈ m, lo ≤ c.1 ∧ c.2 ≠ Memory.unlisted) ∧ m.Pairwise (fun c d => c.1 < d.1) := by
  induction m generalizing lo with
  | nil => simp [Memory.wfFrom]
  | cons c m ih =>
    obtain ⟨a, v⟩ := c
    simp only [Memory.wfFrom, Bool.and_eq_true, decide_eq_true_eq, ih, List.pairwise_cons, List.mem_cons,
      forall_eq_or_imp]
    constructor
    · rintro ⟨⟨h1, h2⟩, h3, h4⟩
      exact ⟨⟨⟨h1, h2⟩, fun c hc => ⟨by have := (h3 c hc).1; omega, (h3 c hc).2⟩⟩,
        fun c hc => by have := (h3 c hc).1; omega, h4⟩
    · rintro ⟨⟨⟨h1, h2⟩, h3⟩, h4, h5⟩
      exact ⟨⟨h1, h2⟩, fun c hc => ⟨by have := h4 c hc; omega, (h3 c hc).2⟩, h5⟩

/-- A memory is canonical when its entries are off the unlisted value and its addresses rise strictly. -/
theorem wf_iff (m : Memory) :
    m.wf = true ↔ (∀ c ∈ m, c.2 ≠ Memory.unlisted) ∧ m.Pairwise (fun c d => c.1 < d.1) := by
  simp [Memory.wf, wfFrom_iff]

theorem pairwise_listed (a : Nat) (bs : List Byte) : (listed a bs).Pairwise (fun c d => c.1 < d.1) := by
  induction bs generalizing a with
  | nil => simp [listed]
  | cons v bs ih =>
    unfold listed
    split
    · exact ih _
    · exact List.pairwise_cons.2 ⟨fun c hc => by have := (mem_listed hc).1; simp only; omega, ih _⟩

/-- Every write keeps the canonical form. -/
theorem wf_writeBytes (m : Memory) (a : Nat) (bs : List Byte) (h : m.wf = true) : (writeBytes m a bs).wf = true := by
  rw [wf_iff] at h ⊢
  obtain ⟨hv, hs⟩ := h
  unfold writeBytes
  constructor
  · intro c hc
    simp only [List.mem_append, List.mem_filter] at hc
    rcases hc with (hc | hc) | hc
    · exact hv c hc.1
    · exact (mem_listed hc).2.2
    · exact hv c hc.1
  · simp only [List.pairwise_append, List.mem_append, List.mem_filter, decide_eq_true_eq]
    refine ⟨⟨hs.filter _, pairwise_listed a bs, ?_⟩, hs.filter _, ?_⟩
    · rintro c ⟨_, hc⟩ d hd
      have := (mem_listed hd).1; omega
    · rintro c (⟨_, hc⟩ | hc) d ⟨_, hd⟩
      · omega
      · have := (mem_listed hc).2.1; omega

@[simp] theorem wordBytes_length (w : Word) : (wordBytes w).length = 4 := rfl

@[simp] theorem wordBytes_flatMap_length (ws : List Word) : (ws.flatMap wordBytes).length = 4 * ws.length := by
  induction ws with
  | nil => rfl
  | cons w ws ih => rw [List.flatMap_cons, List.length_append, ih, wordBytes_length, List.length_cons]; omega

theorem wf_writeWord (m : Memory) (a : Nat) (v : Word) (h : m.wf = true) : (writeWord m a v).wf = true :=
  wf_writeBytes m a _ h

theorem wf_writeWords (m : Memory) (a : Nat) (ws : List Word) (h : m.wf = true) : (writeWords m a ws).wf = true :=
  wf_writeBytes m a _ h

theorem wf_writeSample (m : Memory) (a : Nat) (x : Sample) (h : m.wf = true) : (writeSample m a x).wf = true :=
  wf_writeBytes m a _ h

theorem wf_writeSamples (m : Memory) (a : Nat) (xs : List Sample) (h : m.wf = true) :
    (writeSamples m a xs).wf = true :=
  wf_writeBytes m a _ h

theorem wf_writeBlock (m : Memory) (b : Nat) (ws : List Word) (h : m.wf = true) : (writeBlock m b ws).wf = true :=
  wf_writeWords m _ ws h

theorem wf_writeBuffer (m : Memory) (x : AudioBuf) (xs : List Sample) (h : m.wf = true) :
    (writeBuffer m x xs).wf = true :=
  wf_writeSamples m _ xs h

/-- A word is its four byte lanes (R73). -/
theorem bytesWord_wordBytes (w : Word) :
    bytesWord (w.extractLsb' 0 8) (w.extractLsb' 8 8) (w.extractLsb' 16 8) (w.extractLsb' 24 8) = w := by
  apply BitVec.eq_of_getLsbD_eq
  intro i hi
  simp only [bytesWord, BitVec.getLsbD_append, BitVec.getLsbD_extractLsb']
  by_cases h1 : i < 8
  · simp [h1]
  · by_cases h2 : i - 8 < 8
    · simp [h1, h2]; congr 1; omega
    · by_cases h3 : i - 8 - 8 < 8
      · simp [h1, h2, h3]; congr 1; omega
      · have h4 : i - 8 - 8 - 8 < 8 := by omega
        simp [h1, h2, h3, h4]; congr 1; omega

/-- Two memories that agree on the four bytes of a word read the same word. -/
theorem readWord_congr (m n : Memory) (a : Nat) (h : ∀ x, a ≤ x → x < a + 4 → readByte m x = readByte n x) :
    readWord m a = readWord n a := by
  simp only [readWord, h a (by omega) (by omega), h (a + 1) (by omega) (by omega),
    h (a + 2) (by omega) (by omega), h (a + 3) (by omega) (by omega)]

theorem readByte_window (m : Memory) (a n x : Nat) (h1 : a ≤ x) (h2 : x < a + n) :
    readByte (window m a n) x = readByte m x :=
  readByte_filter (fun y => decide (a ≤ y) && decide (y < a + n)) m x (by simp [h1, h2])

/-- The words of a run are the words at their addresses. -/
theorem readWords_eq (m : Memory) (a n : Nat) :
    readWords m a n = (List.range n).map fun i => readWord m (a + 4 * i) := by
  unfold readWords
  refine List.map_congr_left fun i hi => ?_
  have := List.mem_range.1 hi
  exact readWord_congr _ _ _ fun x h1 h2 => readByte_window m a _ x (by omega) (by omega)

@[simp] theorem readWords_length (m : Memory) (a n : Nat) : (readWords m a n).length = n := by
  simp [readWords]

theorem readWords_getD (m : Memory) (a n i : Nat) (h : i < n) :
    (readWords m a n).getD i 0 = readWord m (a + 4 * i) := by
  simp [readWords_eq, List.getD_eq_getElem?_getD, h]

/-- The samples of a run are the samples at their addresses. -/
theorem readSamples_eq (m : Memory) (a n : Nat) :
    readSamples m a n = (List.range n).map fun k => readSample m (a + 4 * k) := by
  unfold readSamples
  refine List.map_congr_left fun i hi => ?_
  have := List.mem_range.1 hi
  simp only [readSample, readByte_window m a (4 * n) (a + 4 * i) (by omega) (by omega),
    readByte_window m a (4 * n) (a + 4 * i + 1) (by omega) (by omega)]

@[simp] theorem readSamples_length (m : Memory) (a n : Nat) : (readSamples m a n).length = n := by
  simp [readSamples]

theorem getD_flatMap_wordBytes (ws : List Word) (i j : Nat) (hj : j < 4) :
    (ws.flatMap wordBytes).getD (4 * i + j) Memory.unlisted = (wordBytes (ws.getD i 0)).getD j Memory.unlisted := by
  induction ws generalizing i with
  | nil =>
    rw [List.flatMap_nil, List.getD_nil, List.getD_nil]
    match j, hj with
    | 0, _ => rfl
    | 1, _ => rfl
    | 2, _ => rfl
    | 3, _ => rfl
  | cons w ws ih =>
    rw [List.flatMap_cons]
    cases i with
    | zero =>
      rw [Nat.mul_zero, Nat.zero_add, List.getD_eq_getElem?_getD, List.getElem?_append_left (by simpa using hj)]
      simp
    | succ i =>
      rw [List.getD_eq_getElem?_getD, List.getElem?_append_right (by rw [wordBytes_length]; omega),
        wordBytes_length, show 4 * (i + 1) + j - 4 = 4 * i + j by omega, ← List.getD_eq_getElem?_getD, ih,
        List.getD_cons_succ]

/-- The word at word `i` of a run just stored is the stored word. -/
theorem readWord_writeWords_inside (m : Memory) (a i : Nat) (ws : List Word) (h : i < ws.length) :
    readWord (writeWords m a ws) (a + 4 * i) = ws.getD i 0 := by
  have hb : ∀ j, j < 4 → readByte (writeWords m a ws) (a + 4 * i + j)
      = (wordBytes (ws.getD i 0)).getD j Memory.unlisted := fun j hj => by
    rw [writeWords, Nat.add_assoc, readByte_writeBytes_inside _ _ _ _ (by rw [wordBytes_flatMap_length]; omega),
      getD_flatMap_wordBytes _ _ _ hj]
  have h0 := hb 0 (by omega)
  rw [Nat.add_zero] at h0
  simp only [readWord, h0, hb 1 (by omega), hb 2 (by omega), hb 3 (by omega)]
  exact bytesWord_wordBytes _

/-- A word that lies outside a run just stored is unchanged. -/
theorem readWord_writeWords_outside (m : Memory) (a x : Nat) (ws : List Word)
    (h : x + 4 ≤ a ∨ a + 4 * ws.length ≤ x) : readWord (writeWords m a ws) x = readWord m x :=
  readWord_congr _ _ _ fun y h1 h2 => readByte_writeBytes_outside _ _ _ _ (by
    rw [wordBytes_flatMap_length]; omega)

/-- A byte outside a block just stored is unchanged. -/
theorem readByte_writeBlock_outside (m : Memory) (b x : Nat) (ws : List Word)
    (h : x < elmAddr b 0 ∨ elmAddr b 0 + 4 * ws.length ≤ x) :
    readByte (writeBlock m b ws) x = readByte m x :=
  readByte_writeBytes_outside _ _ _ _ (by rw [wordBytes_flatMap_length]; omega)

theorem elmAddr_word (b w : Nat) : elmAddr b w = elmAddr b 0 + 4 * w := by simp [elmAddr]

/-- Word `w` of a block just stored is the stored word. -/
theorem readWord_writeBlock_same (m : Memory) (b w : Nat) (ws : List Word) (h : w < ws.length) :
    readWord (writeBlock m b ws) (elmAddr b w) = ws.getD w 0 := by
  rw [elmAddr_word]; exact readWord_writeWords_inside m _ w ws h

/-- Storing at most a block's 512 words leaves every other block alone. -/
theorem readWord_writeBlock_other (m : Memory) (b c w : Nat) (ws : List Word) (hl : ws.length ≤ 512) (hw : w < 512)
    (hbc : c ≠ b) : readWord (writeBlock m b ws) (elmAddr c w) = readWord m (elmAddr c w) :=
  readWord_writeWords_outside _ _ _ _ (by simp only [elmAddr]; omega)

@[simp] theorem readBlock_length (bd : Build) (m : Memory) (b : Nat) : (readBlock bd m b).length = bd.L := by
  simp [readBlock]

theorem readBlock_getD (bd : Build) (m : Memory) (b w : Nat) (h : w < bd.L) :
    (readBlock bd m b).getD w 0 = readWord m (elmAddr b w) := by
  rw [readBlock, readWords_getD _ _ _ _ h, ← elmAddr_word]

end Sys2Proof.Machine
end

