-- ==== Sys2Proof/Laws/Blocks.lean ====
section
/-! SUPPORT. Sizes of a build, lengths of the word sequences the commands store, and complex bins of a block. -/

namespace Sys2Proof

theorem Build.P_pos (b : Build) : 1 ≤ b.P := by simp [Build.P]

theorem Build.P_le (b : Build) : b.P ≤ 100 := by have := b.pIndex.isLt; simp only [Build.P]; omega

theorem Build.log2B_pos (b : Build) : 1 ≤ b.log2B := by simp [Build.log2B]

theorem Build.log2B_le (b : Build) : b.log2B ≤ 7 := by have := b.bIndex.isLt; simp only [Build.log2B]; omega

theorem Build.B_le (b : Build) : b.B ≤ 128 := Nat.pow_le_pow_right (by omega) b.log2B_le

theorem Build.B_pos (b : Build) : 0 < b.B := Nat.two_pow_pos _

/-- `N = 2·B` (R6). -/
theorem Build.N_eq (b : Build) : b.N = 2 * b.B := by
  simp only [Build.N, Build.log2N, Build.B, Nat.pow_succ]; omega

/-- `L = 4·B` (R6). -/
theorem Build.L_eq (b : Build) : b.L = 4 * b.B := by simp only [Build.L, Build.N_eq]; omega

theorem Build.L_le (b : Build) : b.L ≤ 512 := by have := b.B_le; have := b.L_eq; omega

end Sys2Proof

namespace Sys2Proof.Machine

@[simp] theorem zeroBlock_length (bd : Build) : (zeroBlock bd).length = bd.L := by simp [zeroBlock]

@[simp] theorem ofBins_length (zs : List Cplx) : (ofBins zs).length = 2 * zs.length := by
  induction zs with
  | nil => rfl
  | cons z zs ih => simp only [ofBins, List.length_cons, ih]; omega

@[simp] theorem toBins_ofBins (zs : List Cplx) : toBins (ofBins zs) = zs := by
  induction zs with
  | nil => rfl
  | cons z zs ih => simp only [ofBins, toBins, ih]

theorem toBins_length (ws : List Word) : (toBins ws).length = ws.length / 2 := by
  induction ws using toBins.induct with
  | case1 re im rest ih => simp only [toBins, List.length_cons, ih]; omega
  | case2 ws h =>
    match ws, h with
    | [], _ => rfl
    | [_], _ => simp [toBins]
    | re :: im :: rest, h => exact absurd rfl (h re im rest)

/-- Bin `k` of a word sequence is its words `2k` and `2k + 1` (R12). -/
theorem toBins_getD (ws : List Word) (k : Nat) (h : 2 * k + 1 < ws.length) :
    (toBins ws).getD k ⟨0, 0⟩ = ⟨ws.getD (2 * k) 0, ws.getD (2 * k + 1) 0⟩ := by
  induction ws using toBins.induct generalizing k with
  | case1 re im rest ih =>
    cases k with
    | zero => simp [toBins]
    | succ k =>
      have := ih k (by simp only [List.length_cons] at h; omega)
      simp only [toBins, List.getD_cons_succ, this, show 2 * (k + 1) = 2 * k + 1 + 1 by omega]
  | case2 ws hw =>
    match ws, hw with
    | [], _ => simp at h
    | [_], _ => simp at h
    | re :: im :: rest, hw => exact absurd rfl (hw re im rest)

/-- Words `2k` and `2k + 1` of a sequence of bins are bin `k` (R12). -/
theorem ofBins_getD (zs : List Cplx) (k : Nat) (h : k < zs.length) :
    (ofBins zs).getD (2 * k) 0 = (zs.getD k ⟨0, 0⟩).re ∧ (ofBins zs).getD (2 * k + 1) 0 = (zs.getD k ⟨0, 0⟩).im := by
  induction zs generalizing k with
  | nil => simp at h
  | cons z zs ih =>
    cases k with
    | zero => simp [ofBins]
    | succ k =>
      have := ih k (by simpa using h)
      simpa only [ofBins, List.getD_cons_succ, show 2 * (k + 1) = 2 * k + 1 + 1 by omega] using this

/-- The bins of a block read from memory. -/
theorem toBins_readBlock (bd : Build) (m : Memory) (b k : Nat) (h : k < bd.N) :
    (toBins (readBlock bd m b)).getD k ⟨0, 0⟩ = readBin m b k := by
  have hL : bd.L = 2 * bd.N := rfl
  rw [toBins_getD _ _ (by rw [readBlock_length]; omega), readBlock_getD _ _ _ _ (by omega),
    readBlock_getD _ _ _ _ (by omega)]
  rfl

@[simp] theorem toBins_readBlock_length (bd : Build) (m : Memory) (b : Nat) :
    (toBins (readBlock bd m b)).length = bd.N := by
  rw [toBins_length, readBlock_length, Build.L]; omega

@[simp] theorem cmacWords_length (acc a b : List Word) :
    (cmacWords acc a b).length = 2 * min (acc.length / 2) (min (a.length / 2) (b.length / 2)) := by
  simp [cmacWords, toBins_length]

@[simp] theorem bflyAt_length (dir : Dir) (g h k base j : Nat) (y : List Cplx) :
    (bflyAt dir g h k base j y).length = y.length := by simp [bflyAt]

theorem foldl_length {α β : Type} (f : List β → α → List β) (hf : ∀ y a, (f y a).length = y.length) (l : List α)
    (y : List β) : (l.foldl f y).length = y.length := by
  induction l generalizing y with
  | nil => rfl
  | cons a l ih => rw [List.foldl_cons, ih, hf]

@[simp] theorem loadReversed_length (g : Nat) (x : List Cplx) : (loadReversed g x).length = 2 ^ g := by
  rw [loadReversed, foldl_length _ (fun y a => by simp), List.length_replicate]

@[simp] theorem bflyGroup_length (dir : Dir) (g h st base : Nat) (y : List Cplx) :
    (bflyGroup dir g h st base y).length = y.length := foldl_length _ (fun _ _ => by simp) _ _

@[simp] theorem stage_length (dir : Dir) (g s : Nat) (y : List Cplx) : (stage dir g s y).length = y.length :=
  foldl_length _ (fun _ _ => by simp) _ _

@[simp] theorem stages_length (dir : Dir) (g n : Nat) (y : List Cplx) : (stages dir g y n).length = y.length := by
  induction n with
  | zero => rfl
  | succ n ih => rw [stages, stage_length, ih]

@[simp] theorem transform_length (dir : Dir) (g : Nat) (x : List Cplx) : (transform dir g x).length = 2 ^ g := by
  simp [transform]

/-- A transform fills its whole block. -/
@[simp] theorem xform_length (bd : Build) (dir : Dir) (ws : List Word) : (xform bd dir ws).length = bd.L := by
  simp [xform, Build.L, Build.N]

theorem wf_xformBlock (bd : Build) (dir : Dir) (b : Nat) (m : Memory) (h : m.wf = true) :
    (xformBlock bd dir b m).wf = true := wf_writeBlock _ _ _ h

theorem wf_clearSlots (bd : Build) (m : Memory) (n : Nat) (h : m.wf = true) : (clearSlots bd m n).wf = true := by
  induction n with
  | zero => exact h
  | succ n ih => exact wf_writeBlock _ _ _ ih

theorem wf_clearHistory (bd : Build) (m : Memory) (h : m.wf = true) : (clearHistory bd m).wf = true :=
  wf_writeBlock _ _ _ (wf_clearSlots bd m _ h)

theorem wf_olsMemory (bd : Build) (c : BitVec 8) (k : Nat) (m : Memory) (h : m.wf = true) :
    (olsMemory bd c k m).wf = true := by
  unfold olsMemory convolveChannel
  exact wf_writeBlock _ _ _ (wf_writeBlock _ _ _ (wf_writeBlock _ _ _ (wf_xformBlock _ _ _ _
    (wf_writeBlock _ _ _ (wf_writeBlock _ _ _ h)))))

theorem wf_setOutputs (l r : List Sample) (s : State) (h : s.mem.wf = true) : (setOutputs l r s).mem.wf = true :=
  wf_writeBuffer _ _ _ (wf_writeBuffer _ _ _ h)

end Sys2Proof.Machine
end

