-- ==== Sys2Proof/Laws/State.lean ====
section
/-! SUPPORT. One lemma per field per update of the state, so that no proof unfolds an update. Fields an update leaves
alone come first, then the values of those it writes. -/

namespace Sys2Proof.Machine

@[simp] theorem raiseFlags_build (g : BitVec 5) (s : State) : (raiseFlags g s).build = s.build := rfl
@[simp] theorem raiseFlags_passthru (g : BitVec 5) (s : State) : (raiseFlags g s).passthru = s.passthru := rfl
@[simp] theorem raiseFlags_busy (g : BitVec 5) (s : State) : (raiseFlags g s).busy = s.busy := rfl
@[simp] theorem raiseFlags_activeBank (g : BitVec 5) (s : State) : (raiseFlags g s).activeBank = s.activeBank := rfl
@[simp] theorem raiseFlags_init (g : BitVec 5) (s : State) : (raiseFlags g s).init = s.init := rfl
@[simp] theorem raiseFlags_cursor (g : BitVec 5) (s : State) : (raiseFlags g s).cursor = s.cursor := rfl
@[simp] theorem raiseFlags_gain (g : BitVec 5) (s : State) : (raiseFlags g s).gain = s.gain := rfl
@[simp] theorem raiseFlags_intEnable (g : BitVec 5) (s : State) : (raiseFlags g s).intEnable = s.intEnable := rfl
@[simp] theorem raiseFlags_errCode (g : BitVec 5) (s : State) : (raiseFlags g s).errCode = s.errCode := rfl
@[simp] theorem raiseFlags_errCmd (g : BitVec 5) (s : State) : (raiseFlags g s).errCmd = s.errCmd := rfl
@[simp] theorem raiseFlags_tickCount (g : BitVec 5) (s : State) : (raiseFlags g s).tickCount = s.tickCount := rfl
@[simp] theorem raiseFlags_skipCount (g : BitVec 5) (s : State) : (raiseFlags g s).skipCount = s.skipCount := rfl
@[simp] theorem raiseFlags_audioAvail (g : BitVec 5) (s : State) : (raiseFlags g s).audioAvail = s.audioAvail := rfl
@[simp] theorem raiseFlags_pending (g : BitVec 5) (s : State) : (raiseFlags g s).pending = s.pending := rfl
@[simp] theorem raiseFlags_mem (g : BitVec 5) (s : State) : (raiseFlags g s).mem = s.mem := rfl
@[simp] theorem raiseFlags_host (g : BitVec 5) (s : State) : (raiseFlags g s).host = s.host := rfl
@[simp] theorem raiseFlags_responses (g : BitVec 5) (s : State) : (raiseFlags g s).responses = s.responses := rfl
@[simp] theorem raiseFlags_wait (g : BitVec 5) (s : State) : (raiseFlags g s).wait = s.wait := rfl
@[simp] theorem raiseFlags_draws (g : BitVec 5) (s : State) : (raiseFlags g s).draws = s.draws := rfl
@[simp] theorem raiseFlags_intStatus (g : BitVec 5) (s : State) :
    (raiseFlags g s).intStatus = s.intStatus ||| g := rfl

@[simp] theorem complete_build (s : State) : (complete s).build = s.build := rfl
@[simp] theorem complete_passthru (s : State) : (complete s).passthru = s.passthru := rfl
@[simp] theorem complete_activeBank (s : State) : (complete s).activeBank = s.activeBank := rfl
@[simp] theorem complete_init (s : State) : (complete s).init = s.init := rfl
@[simp] theorem complete_cursor (s : State) : (complete s).cursor = s.cursor := rfl
@[simp] theorem complete_gain (s : State) : (complete s).gain = s.gain := rfl
@[simp] theorem complete_intEnable (s : State) : (complete s).intEnable = s.intEnable := rfl
@[simp] theorem complete_errCode (s : State) : (complete s).errCode = s.errCode := rfl
@[simp] theorem complete_errCmd (s : State) : (complete s).errCmd = s.errCmd := rfl
@[simp] theorem complete_tickCount (s : State) : (complete s).tickCount = s.tickCount := rfl
@[simp] theorem complete_skipCount (s : State) : (complete s).skipCount = s.skipCount := rfl
@[simp] theorem complete_audioAvail (s : State) : (complete s).audioAvail = s.audioAvail := rfl
@[simp] theorem complete_mem (s : State) : (complete s).mem = s.mem := rfl
@[simp] theorem complete_host (s : State) : (complete s).host = s.host := rfl
@[simp] theorem complete_responses (s : State) : (complete s).responses = s.responses := rfl
@[simp] theorem complete_draws (s : State) : (complete s).draws = s.draws := rfl
@[simp] theorem complete_intStatus (s : State) :
    (complete s).intStatus = s.intStatus ||| flagDone := rfl
@[simp] theorem complete_pending (s : State) :
    (complete s).pending = none := rfl
@[simp] theorem complete_busy (s : State) :
    (complete s).busy = false := rfl
@[simp] theorem complete_wait (s : State) :
    (complete s).wait = none := rfl

@[simp] theorem setBlock_build (b : Nat) (ws : List Word) (s : State) : (setBlock b ws s).build = s.build := rfl
@[simp] theorem setBlock_passthru (b : Nat) (ws : List Word) (s : State) : (setBlock b ws s).passthru = s.passthru := rfl
@[simp] theorem setBlock_busy (b : Nat) (ws : List Word) (s : State) : (setBlock b ws s).busy = s.busy := rfl
@[simp] theorem setBlock_activeBank (b : Nat) (ws : List Word) (s : State) : (setBlock b ws s).activeBank = s.activeBank := rfl
@[simp] theorem setBlock_init (b : Nat) (ws : List Word) (s : State) : (setBlock b ws s).init = s.init := rfl
@[simp] theorem setBlock_cursor (b : Nat) (ws : List Word) (s : State) : (setBlock b ws s).cursor = s.cursor := rfl
@[simp] theorem setBlock_gain (b : Nat) (ws : List Word) (s : State) : (setBlock b ws s).gain = s.gain := rfl
@[simp] theorem setBlock_intStatus (b : Nat) (ws : List Word) (s : State) : (setBlock b ws s).intStatus = s.intStatus := rfl
@[simp] theorem setBlock_intEnable (b : Nat) (ws : List Word) (s : State) : (setBlock b ws s).intEnable = s.intEnable := rfl
@[simp] theorem setBlock_errCode (b : Nat) (ws : List Word) (s : State) : (setBlock b ws s).errCode = s.errCode := rfl
@[simp] theorem setBlock_errCmd (b : Nat) (ws : List Word) (s : State) : (setBlock b ws s).errCmd = s.errCmd := rfl
@[simp] theorem setBlock_tickCount (b : Nat) (ws : List Word) (s : State) : (setBlock b ws s).tickCount = s.tickCount := rfl
@[simp] theorem setBlock_skipCount (b : Nat) (ws : List Word) (s : State) : (setBlock b ws s).skipCount = s.skipCount := rfl
@[simp] theorem setBlock_audioAvail (b : Nat) (ws : List Word) (s : State) : (setBlock b ws s).audioAvail = s.audioAvail := rfl
@[simp] theorem setBlock_pending (b : Nat) (ws : List Word) (s : State) : (setBlock b ws s).pending = s.pending := rfl
@[simp] theorem setBlock_host (b : Nat) (ws : List Word) (s : State) : (setBlock b ws s).host = s.host := rfl
@[simp] theorem setBlock_responses (b : Nat) (ws : List Word) (s : State) : (setBlock b ws s).responses = s.responses := rfl
@[simp] theorem setBlock_wait (b : Nat) (ws : List Word) (s : State) : (setBlock b ws s).wait = s.wait := rfl
@[simp] theorem setBlock_draws (b : Nat) (ws : List Word) (s : State) : (setBlock b ws s).draws = s.draws := rfl
@[simp] theorem setBlock_mem (b : Nat) (ws : List Word) (s : State) :
    (setBlock b ws s).mem = writeBlock s.mem b ws := rfl

@[simp] theorem setOutputs_build (l r : List Sample) (s : State) : (setOutputs l r s).build = s.build := rfl
@[simp] theorem setOutputs_passthru (l r : List Sample) (s : State) : (setOutputs l r s).passthru = s.passthru := rfl
@[simp] theorem setOutputs_busy (l r : List Sample) (s : State) : (setOutputs l r s).busy = s.busy := rfl
@[simp] theorem setOutputs_activeBank (l r : List Sample) (s : State) : (setOutputs l r s).activeBank = s.activeBank := rfl
@[simp] theorem setOutputs_init (l r : List Sample) (s : State) : (setOutputs l r s).init = s.init := rfl
@[simp] theorem setOutputs_cursor (l r : List Sample) (s : State) : (setOutputs l r s).cursor = s.cursor := rfl
@[simp] theorem setOutputs_gain (l r : List Sample) (s : State) : (setOutputs l r s).gain = s.gain := rfl
@[simp] theorem setOutputs_intStatus (l r : List Sample) (s : State) : (setOutputs l r s).intStatus = s.intStatus := rfl
@[simp] theorem setOutputs_intEnable (l r : List Sample) (s : State) : (setOutputs l r s).intEnable = s.intEnable := rfl
@[simp] theorem setOutputs_errCode (l r : List Sample) (s : State) : (setOutputs l r s).errCode = s.errCode := rfl
@[simp] theorem setOutputs_errCmd (l r : List Sample) (s : State) : (setOutputs l r s).errCmd = s.errCmd := rfl
@[simp] theorem setOutputs_tickCount (l r : List Sample) (s : State) : (setOutputs l r s).tickCount = s.tickCount := rfl
@[simp] theorem setOutputs_skipCount (l r : List Sample) (s : State) : (setOutputs l r s).skipCount = s.skipCount := rfl
@[simp] theorem setOutputs_audioAvail (l r : List Sample) (s : State) : (setOutputs l r s).audioAvail = s.audioAvail := rfl
@[simp] theorem setOutputs_pending (l r : List Sample) (s : State) : (setOutputs l r s).pending = s.pending := rfl
@[simp] theorem setOutputs_host (l r : List Sample) (s : State) : (setOutputs l r s).host = s.host := rfl
@[simp] theorem setOutputs_responses (l r : List Sample) (s : State) : (setOutputs l r s).responses = s.responses := rfl
@[simp] theorem setOutputs_wait (l r : List Sample) (s : State) : (setOutputs l r s).wait = s.wait := rfl
@[simp] theorem setOutputs_draws (l r : List Sample) (s : State) : (setOutputs l r s).draws = s.draws := rfl
@[simp] theorem setOutputs_mem (l r : List Sample) (s : State) :
    (setOutputs l r s).mem = writeBuffer (writeBuffer s.mem .outL l) .outR r := rfl

@[simp] theorem outputStage_build (l r : List Word) (s : State) : (outputStage l r s).build = s.build := rfl
@[simp] theorem outputStage_passthru (l r : List Word) (s : State) : (outputStage l r s).passthru = s.passthru := rfl
@[simp] theorem outputStage_busy (l r : List Word) (s : State) : (outputStage l r s).busy = s.busy := rfl
@[simp] theorem outputStage_activeBank (l r : List Word) (s : State) : (outputStage l r s).activeBank = s.activeBank := rfl
@[simp] theorem outputStage_init (l r : List Word) (s : State) : (outputStage l r s).init = s.init := rfl
@[simp] theorem outputStage_cursor (l r : List Word) (s : State) : (outputStage l r s).cursor = s.cursor := rfl
@[simp] theorem outputStage_gain (l r : List Word) (s : State) : (outputStage l r s).gain = s.gain := rfl
@[simp] theorem outputStage_intStatus (l r : List Word) (s : State) : (outputStage l r s).intStatus = s.intStatus := rfl
@[simp] theorem outputStage_intEnable (l r : List Word) (s : State) : (outputStage l r s).intEnable = s.intEnable := rfl
@[simp] theorem outputStage_errCode (l r : List Word) (s : State) : (outputStage l r s).errCode = s.errCode := rfl
@[simp] theorem outputStage_errCmd (l r : List Word) (s : State) : (outputStage l r s).errCmd = s.errCmd := rfl
@[simp] theorem outputStage_tickCount (l r : List Word) (s : State) : (outputStage l r s).tickCount = s.tickCount := rfl
@[simp] theorem outputStage_skipCount (l r : List Word) (s : State) : (outputStage l r s).skipCount = s.skipCount := rfl
@[simp] theorem outputStage_audioAvail (l r : List Word) (s : State) : (outputStage l r s).audioAvail = s.audioAvail := rfl
@[simp] theorem outputStage_pending (l r : List Word) (s : State) : (outputStage l r s).pending = s.pending := rfl
@[simp] theorem outputStage_host (l r : List Word) (s : State) : (outputStage l r s).host = s.host := rfl
@[simp] theorem outputStage_responses (l r : List Word) (s : State) : (outputStage l r s).responses = s.responses := rfl
@[simp] theorem outputStage_wait (l r : List Word) (s : State) : (outputStage l r s).wait = s.wait := rfl
@[simp] theorem outputStage_draws (l r : List Word) (s : State) : (outputStage l r s).draws = s.draws := rfl

@[simp] theorem passthrough_build (s : State) : (passthrough s).build = s.build := rfl
@[simp] theorem passthrough_passthru (s : State) : (passthrough s).passthru = s.passthru := rfl
@[simp] theorem passthrough_busy (s : State) : (passthrough s).busy = s.busy := rfl
@[simp] theorem passthrough_activeBank (s : State) : (passthrough s).activeBank = s.activeBank := rfl
@[simp] theorem passthrough_init (s : State) : (passthrough s).init = s.init := rfl
@[simp] theorem passthrough_cursor (s : State) : (passthrough s).cursor = s.cursor := rfl
@[simp] theorem passthrough_gain (s : State) : (passthrough s).gain = s.gain := rfl
@[simp] theorem passthrough_intStatus (s : State) : (passthrough s).intStatus = s.intStatus := rfl
@[simp] theorem passthrough_intEnable (s : State) : (passthrough s).intEnable = s.intEnable := rfl
@[simp] theorem passthrough_errCode (s : State) : (passthrough s).errCode = s.errCode := rfl
@[simp] theorem passthrough_errCmd (s : State) : (passthrough s).errCmd = s.errCmd := rfl
@[simp] theorem passthrough_tickCount (s : State) : (passthrough s).tickCount = s.tickCount := rfl
@[simp] theorem passthrough_skipCount (s : State) : (passthrough s).skipCount = s.skipCount := rfl
@[simp] theorem passthrough_audioAvail (s : State) : (passthrough s).audioAvail = s.audioAvail := rfl
@[simp] theorem passthrough_pending (s : State) : (passthrough s).pending = s.pending := rfl
@[simp] theorem passthrough_host (s : State) : (passthrough s).host = s.host := rfl
@[simp] theorem passthrough_responses (s : State) : (passthrough s).responses = s.responses := rfl
@[simp] theorem passthrough_wait (s : State) : (passthrough s).wait = s.wait := rfl
@[simp] theorem passthrough_draws (s : State) : (passthrough s).draws = s.draws := rfl

@[simp] theorem skipTick_build (s : State) : (skipTick s).build = s.build := rfl
@[simp] theorem skipTick_passthru (s : State) : (skipTick s).passthru = s.passthru := rfl
@[simp] theorem skipTick_busy (s : State) : (skipTick s).busy = s.busy := rfl
@[simp] theorem skipTick_activeBank (s : State) : (skipTick s).activeBank = s.activeBank := rfl
@[simp] theorem skipTick_init (s : State) : (skipTick s).init = s.init := rfl
@[simp] theorem skipTick_cursor (s : State) : (skipTick s).cursor = s.cursor := rfl
@[simp] theorem skipTick_gain (s : State) : (skipTick s).gain = s.gain := rfl
@[simp] theorem skipTick_intEnable (s : State) : (skipTick s).intEnable = s.intEnable := rfl
@[simp] theorem skipTick_errCode (s : State) : (skipTick s).errCode = s.errCode := rfl
@[simp] theorem skipTick_errCmd (s : State) : (skipTick s).errCmd = s.errCmd := rfl
@[simp] theorem skipTick_tickCount (s : State) : (skipTick s).tickCount = s.tickCount := rfl
@[simp] theorem skipTick_audioAvail (s : State) : (skipTick s).audioAvail = s.audioAvail := rfl
@[simp] theorem skipTick_pending (s : State) : (skipTick s).pending = s.pending := rfl
@[simp] theorem skipTick_mem (s : State) : (skipTick s).mem = s.mem := rfl
@[simp] theorem skipTick_host (s : State) : (skipTick s).host = s.host := rfl
@[simp] theorem skipTick_responses (s : State) : (skipTick s).responses = s.responses := rfl
@[simp] theorem skipTick_wait (s : State) : (skipTick s).wait = s.wait := rfl
@[simp] theorem skipTick_draws (s : State) : (skipTick s).draws = s.draws := rfl
@[simp] theorem skipTick_intStatus (s : State) :
    (skipTick s).intStatus = s.intStatus ||| flagSkip := rfl
@[simp] theorem skipTick_skipCount (s : State) :
    (skipTick s).skipCount = s.skipCount + 1 := rfl

@[simp] theorem completeAudio_build (s : State) : (completeAudio s).build = s.build := rfl
@[simp] theorem completeAudio_passthru (s : State) : (completeAudio s).passthru = s.passthru := rfl
@[simp] theorem completeAudio_busy (s : State) : (completeAudio s).busy = s.busy := rfl
@[simp] theorem completeAudio_activeBank (s : State) : (completeAudio s).activeBank = s.activeBank := rfl
@[simp] theorem completeAudio_init (s : State) : (completeAudio s).init = s.init := rfl
@[simp] theorem completeAudio_cursor (s : State) : (completeAudio s).cursor = s.cursor := rfl
@[simp] theorem completeAudio_gain (s : State) : (completeAudio s).gain = s.gain := rfl
@[simp] theorem completeAudio_intEnable (s : State) : (completeAudio s).intEnable = s.intEnable := rfl
@[simp] theorem completeAudio_errCode (s : State) : (completeAudio s).errCode = s.errCode := rfl
@[simp] theorem completeAudio_errCmd (s : State) : (completeAudio s).errCmd = s.errCmd := rfl
@[simp] theorem completeAudio_skipCount (s : State) : (completeAudio s).skipCount = s.skipCount := rfl
@[simp] theorem completeAudio_pending (s : State) : (completeAudio s).pending = s.pending := rfl
@[simp] theorem completeAudio_mem (s : State) : (completeAudio s).mem = s.mem := rfl
@[simp] theorem completeAudio_host (s : State) : (completeAudio s).host = s.host := rfl
@[simp] theorem completeAudio_responses (s : State) : (completeAudio s).responses = s.responses := rfl
@[simp] theorem completeAudio_wait (s : State) : (completeAudio s).wait = s.wait := rfl
@[simp] theorem completeAudio_draws (s : State) : (completeAudio s).draws = s.draws := rfl
@[simp] theorem completeAudio_intStatus (s : State) :
    (completeAudio s).intStatus = s.intStatus ||| flagOutReady := rfl
@[simp] theorem completeAudio_tickCount (s : State) :
    (completeAudio s).tickCount = s.tickCount + 1 := rfl
@[simp] theorem completeAudio_audioAvail (s : State) :
    (completeAudio s).audioAvail = 0 := rfl

@[simp] theorem olsTick_build (s : State) : (olsTick s).build = s.build := rfl
@[simp] theorem olsTick_passthru (s : State) : (olsTick s).passthru = s.passthru := rfl
@[simp] theorem olsTick_busy (s : State) : (olsTick s).busy = s.busy := rfl
@[simp] theorem olsTick_activeBank (s : State) : (olsTick s).activeBank = s.activeBank := rfl
@[simp] theorem olsTick_init (s : State) : (olsTick s).init = s.init := rfl
@[simp] theorem olsTick_gain (s : State) : (olsTick s).gain = s.gain := rfl
@[simp] theorem olsTick_intStatus (s : State) : (olsTick s).intStatus = s.intStatus := rfl
@[simp] theorem olsTick_intEnable (s : State) : (olsTick s).intEnable = s.intEnable := rfl
@[simp] theorem olsTick_errCode (s : State) : (olsTick s).errCode = s.errCode := rfl
@[simp] theorem olsTick_errCmd (s : State) : (olsTick s).errCmd = s.errCmd := rfl
@[simp] theorem olsTick_tickCount (s : State) : (olsTick s).tickCount = s.tickCount := rfl
@[simp] theorem olsTick_skipCount (s : State) : (olsTick s).skipCount = s.skipCount := rfl
@[simp] theorem olsTick_audioAvail (s : State) : (olsTick s).audioAvail = s.audioAvail := rfl
@[simp] theorem olsTick_pending (s : State) : (olsTick s).pending = s.pending := rfl
@[simp] theorem olsTick_host (s : State) : (olsTick s).host = s.host := rfl
@[simp] theorem olsTick_responses (s : State) : (olsTick s).responses = s.responses := rfl
@[simp] theorem olsTick_wait (s : State) : (olsTick s).wait = s.wait := rfl
@[simp] theorem olsTick_draws (s : State) : (olsTick s).draws = s.draws := rfl
@[simp] theorem olsTick_mem (s : State) :
    (olsTick s).mem = olsMemory s.build s.cursor (bankNumber s.activeBank) s.mem := rfl
@[simp] theorem olsTick_cursor (s : State) :
    (olsTick s).cursor = nextCursor s.build s.cursor := rfl

@[simp] theorem convolve_build (s : State) : (convolve s).build = s.build := rfl
@[simp] theorem convolve_passthru (s : State) : (convolve s).passthru = s.passthru := rfl
@[simp] theorem convolve_busy (s : State) : (convolve s).busy = s.busy := rfl
@[simp] theorem convolve_activeBank (s : State) : (convolve s).activeBank = s.activeBank := rfl
@[simp] theorem convolve_init (s : State) : (convolve s).init = s.init := rfl
@[simp] theorem convolve_gain (s : State) : (convolve s).gain = s.gain := rfl
@[simp] theorem convolve_intStatus (s : State) : (convolve s).intStatus = s.intStatus := rfl
@[simp] theorem convolve_intEnable (s : State) : (convolve s).intEnable = s.intEnable := rfl
@[simp] theorem convolve_errCode (s : State) : (convolve s).errCode = s.errCode := rfl
@[simp] theorem convolve_errCmd (s : State) : (convolve s).errCmd = s.errCmd := rfl
@[simp] theorem convolve_tickCount (s : State) : (convolve s).tickCount = s.tickCount := rfl
@[simp] theorem convolve_skipCount (s : State) : (convolve s).skipCount = s.skipCount := rfl
@[simp] theorem convolve_audioAvail (s : State) : (convolve s).audioAvail = s.audioAvail := rfl
@[simp] theorem convolve_pending (s : State) : (convolve s).pending = s.pending := rfl
@[simp] theorem convolve_host (s : State) : (convolve s).host = s.host := rfl
@[simp] theorem convolve_responses (s : State) : (convolve s).responses = s.responses := rfl
@[simp] theorem convolve_wait (s : State) : (convolve s).wait = s.wait := rfl
@[simp] theorem convolve_draws (s : State) : (convolve s).draws = s.draws := rfl
@[simp] theorem convolve_cursor (s : State) :
    (convolve s).cursor = nextCursor s.build s.cursor := rfl

@[simp] theorem accept_build (c : Word) (s : State) : (accept c s).build = s.build := rfl
@[simp] theorem accept_passthru (c : Word) (s : State) : (accept c s).passthru = s.passthru := rfl
@[simp] theorem accept_activeBank (c : Word) (s : State) : (accept c s).activeBank = s.activeBank := rfl
@[simp] theorem accept_init (c : Word) (s : State) : (accept c s).init = s.init := rfl
@[simp] theorem accept_cursor (c : Word) (s : State) : (accept c s).cursor = s.cursor := rfl
@[simp] theorem accept_gain (c : Word) (s : State) : (accept c s).gain = s.gain := rfl
@[simp] theorem accept_intStatus (c : Word) (s : State) : (accept c s).intStatus = s.intStatus := rfl
@[simp] theorem accept_intEnable (c : Word) (s : State) : (accept c s).intEnable = s.intEnable := rfl
@[simp] theorem accept_errCode (c : Word) (s : State) : (accept c s).errCode = s.errCode := rfl
@[simp] theorem accept_errCmd (c : Word) (s : State) : (accept c s).errCmd = s.errCmd := rfl
@[simp] theorem accept_tickCount (c : Word) (s : State) : (accept c s).tickCount = s.tickCount := rfl
@[simp] theorem accept_skipCount (c : Word) (s : State) : (accept c s).skipCount = s.skipCount := rfl
@[simp] theorem accept_audioAvail (c : Word) (s : State) : (accept c s).audioAvail = s.audioAvail := rfl
@[simp] theorem accept_mem (c : Word) (s : State) : (accept c s).mem = s.mem := rfl
@[simp] theorem accept_host (c : Word) (s : State) : (accept c s).host = s.host := rfl
@[simp] theorem accept_responses (c : Word) (s : State) : (accept c s).responses = s.responses := rfl
@[simp] theorem accept_pending (c : Word) (s : State) :
    (accept c s).pending = some c := rfl
@[simp] theorem accept_busy (c : Word) (s : State) :
    (accept c s).busy = true := rfl
@[simp] theorem accept_wait (c : Word) (s : State) :
    (accept c s).wait = none := rfl
@[simp] theorem accept_draws (c : Word) (s : State) :
    (accept c s).draws = s.draws + 1 := rfl

@[simp] theorem respond_build (r : Response) (s : State) : (respond r s).build = s.build := rfl
@[simp] theorem respond_passthru (r : Response) (s : State) : (respond r s).passthru = s.passthru := rfl
@[simp] theorem respond_busy (r : Response) (s : State) : (respond r s).busy = s.busy := rfl
@[simp] theorem respond_activeBank (r : Response) (s : State) : (respond r s).activeBank = s.activeBank := rfl
@[simp] theorem respond_init (r : Response) (s : State) : (respond r s).init = s.init := rfl
@[simp] theorem respond_cursor (r : Response) (s : State) : (respond r s).cursor = s.cursor := rfl
@[simp] theorem respond_gain (r : Response) (s : State) : (respond r s).gain = s.gain := rfl
@[simp] theorem respond_intStatus (r : Response) (s : State) : (respond r s).intStatus = s.intStatus := rfl
@[simp] theorem respond_intEnable (r : Response) (s : State) : (respond r s).intEnable = s.intEnable := rfl
@[simp] theorem respond_errCode (r : Response) (s : State) : (respond r s).errCode = s.errCode := rfl
@[simp] theorem respond_errCmd (r : Response) (s : State) : (respond r s).errCmd = s.errCmd := rfl
@[simp] theorem respond_tickCount (r : Response) (s : State) : (respond r s).tickCount = s.tickCount := rfl
@[simp] theorem respond_skipCount (r : Response) (s : State) : (respond r s).skipCount = s.skipCount := rfl
@[simp] theorem respond_audioAvail (r : Response) (s : State) : (respond r s).audioAvail = s.audioAvail := rfl
@[simp] theorem respond_pending (r : Response) (s : State) : (respond r s).pending = s.pending := rfl
@[simp] theorem respond_mem (r : Response) (s : State) : (respond r s).mem = s.mem := rfl
@[simp] theorem respond_host (r : Response) (s : State) : (respond r s).host = s.host := rfl
@[simp] theorem respond_wait (r : Response) (s : State) : (respond r s).wait = s.wait := rfl
@[simp] theorem respond_draws (r : Response) (s : State) : (respond r s).draws = s.draws := rfl
@[simp] theorem respond_responses (r : Response) (s : State) :
    (respond r s).responses = r :: s.responses := rfl

@[simp] theorem endInit_build (s : State) : (endInit s).build = s.build := rfl
@[simp] theorem endInit_passthru (s : State) : (endInit s).passthru = s.passthru := rfl
@[simp] theorem endInit_cursor (s : State) : (endInit s).cursor = s.cursor := rfl
@[simp] theorem endInit_gain (s : State) : (endInit s).gain = s.gain := rfl
@[simp] theorem endInit_intStatus (s : State) : (endInit s).intStatus = s.intStatus := rfl
@[simp] theorem endInit_intEnable (s : State) : (endInit s).intEnable = s.intEnable := rfl
@[simp] theorem endInit_errCode (s : State) : (endInit s).errCode = s.errCode := rfl
@[simp] theorem endInit_errCmd (s : State) : (endInit s).errCmd = s.errCmd := rfl
@[simp] theorem endInit_tickCount (s : State) : (endInit s).tickCount = s.tickCount := rfl
@[simp] theorem endInit_skipCount (s : State) : (endInit s).skipCount = s.skipCount := rfl
@[simp] theorem endInit_audioAvail (s : State) : (endInit s).audioAvail = s.audioAvail := rfl
@[simp] theorem endInit_pending (s : State) : (endInit s).pending = s.pending := rfl
@[simp] theorem endInit_host (s : State) : (endInit s).host = s.host := rfl
@[simp] theorem endInit_responses (s : State) : (endInit s).responses = s.responses := rfl
@[simp] theorem endInit_draws (s : State) : (endInit s).draws = s.draws := rfl
@[simp] theorem endInit_mem (s : State) :
    (endInit s).mem = [] := rfl
@[simp] theorem endInit_busy (s : State) :
    (endInit s).busy = false := rfl
@[simp] theorem endInit_init (s : State) :
    (endInit s).init = false := rfl
@[simp] theorem endInit_activeBank (s : State) :
    (endInit s).activeBank = false := rfl
@[simp] theorem endInit_wait (s : State) :
    (endInit s).wait = none := rfl

@[simp] theorem placeCommand_build (c : Word) (s : State) : (placeCommand c s).build = s.build := rfl
@[simp] theorem placeCommand_passthru (c : Word) (s : State) : (placeCommand c s).passthru = s.passthru := rfl
@[simp] theorem placeCommand_activeBank (c : Word) (s : State) : (placeCommand c s).activeBank = s.activeBank := rfl
@[simp] theorem placeCommand_cursor (c : Word) (s : State) : (placeCommand c s).cursor = s.cursor := rfl
@[simp] theorem placeCommand_gain (c : Word) (s : State) : (placeCommand c s).gain = s.gain := rfl
@[simp] theorem placeCommand_intStatus (c : Word) (s : State) : (placeCommand c s).intStatus = s.intStatus := rfl
@[simp] theorem placeCommand_intEnable (c : Word) (s : State) : (placeCommand c s).intEnable = s.intEnable := rfl
@[simp] theorem placeCommand_errCode (c : Word) (s : State) : (placeCommand c s).errCode = s.errCode := rfl
@[simp] theorem placeCommand_errCmd (c : Word) (s : State) : (placeCommand c s).errCmd = s.errCmd := rfl
@[simp] theorem placeCommand_tickCount (c : Word) (s : State) : (placeCommand c s).tickCount = s.tickCount := rfl
@[simp] theorem placeCommand_skipCount (c : Word) (s : State) : (placeCommand c s).skipCount = s.skipCount := rfl
@[simp] theorem placeCommand_audioAvail (c : Word) (s : State) : (placeCommand c s).audioAvail = s.audioAvail := rfl
@[simp] theorem placeCommand_mem (c : Word) (s : State) : (placeCommand c s).mem = s.mem := rfl
@[simp] theorem placeCommand_host (c : Word) (s : State) : (placeCommand c s).host = s.host := rfl
@[simp] theorem placeCommand_responses (c : Word) (s : State) : (placeCommand c s).responses = s.responses := rfl
@[simp] theorem placeCommand_draws (c : Word) (s : State) : (placeCommand c s).draws = s.draws := rfl
@[simp] theorem placeCommand_pending (c : Word) (s : State) :
    (placeCommand c s).pending = some c := rfl
@[simp] theorem placeCommand_busy (c : Word) (s : State) :
    (placeCommand c s).busy = true := rfl
@[simp] theorem placeCommand_init (c : Word) (s : State) :
    (placeCommand c s).init = false := rfl
@[simp] theorem placeCommand_wait (c : Word) (s : State) :
    (placeCommand c s).wait = some 0 := rfl

@[simp] theorem recordCmdError_build (e : CmdError) (c : Word) (s : State) : (recordCmdError e c s).build = s.build := by
  unfold recordCmdError; split <;> rfl
@[simp] theorem recordCmdError_passthru (e : CmdError) (c : Word) (s : State) : (recordCmdError e c s).passthru = s.passthru := by
  unfold recordCmdError; split <;> rfl
@[simp] theorem recordCmdError_busy (e : CmdError) (c : Word) (s : State) : (recordCmdError e c s).busy = s.busy := by
  unfold recordCmdError; split <;> rfl
@[simp] theorem recordCmdError_activeBank (e : CmdError) (c : Word) (s : State) : (recordCmdError e c s).activeBank = s.activeBank := by
  unfold recordCmdError; split <;> rfl
@[simp] theorem recordCmdError_init (e : CmdError) (c : Word) (s : State) : (recordCmdError e c s).init = s.init := by
  unfold recordCmdError; split <;> rfl
@[simp] theorem recordCmdError_cursor (e : CmdError) (c : Word) (s : State) : (recordCmdError e c s).cursor = s.cursor := by
  unfold recordCmdError; split <;> rfl
@[simp] theorem recordCmdError_gain (e : CmdError) (c : Word) (s : State) : (recordCmdError e c s).gain = s.gain := by
  unfold recordCmdError; split <;> rfl
@[simp] theorem recordCmdError_intEnable (e : CmdError) (c : Word) (s : State) : (recordCmdError e c s).intEnable = s.intEnable := by
  unfold recordCmdError; split <;> rfl
@[simp] theorem recordCmdError_tickCount (e : CmdError) (c : Word) (s : State) : (recordCmdError e c s).tickCount = s.tickCount := by
  unfold recordCmdError; split <;> rfl
@[simp] theorem recordCmdError_skipCount (e : CmdError) (c : Word) (s : State) : (recordCmdError e c s).skipCount = s.skipCount := by
  unfold recordCmdError; split <;> rfl
@[simp] theorem recordCmdError_audioAvail (e : CmdError) (c : Word) (s : State) : (recordCmdError e c s).audioAvail = s.audioAvail := by
  unfold recordCmdError; split <;> rfl
@[simp] theorem recordCmdError_pending (e : CmdError) (c : Word) (s : State) : (recordCmdError e c s).pending = s.pending := by
  unfold recordCmdError; split <;> rfl
@[simp] theorem recordCmdError_mem (e : CmdError) (c : Word) (s : State) : (recordCmdError e c s).mem = s.mem := by
  unfold recordCmdError; split <;> rfl
@[simp] theorem recordCmdError_host (e : CmdError) (c : Word) (s : State) : (recordCmdError e c s).host = s.host := by
  unfold recordCmdError; split <;> rfl
@[simp] theorem recordCmdError_responses (e : CmdError) (c : Word) (s : State) : (recordCmdError e c s).responses = s.responses := by
  unfold recordCmdError; split <;> rfl
@[simp] theorem recordCmdError_wait (e : CmdError) (c : Word) (s : State) : (recordCmdError e c s).wait = s.wait := by
  unfold recordCmdError; split <;> rfl
@[simp] theorem recordCmdError_draws (e : CmdError) (c : Word) (s : State) : (recordCmdError e c s).draws = s.draws := by
  unfold recordCmdError; split <;> rfl

@[simp] theorem clearIntStatus_build (v : Word) (s : State) : (clearIntStatus v s).build = s.build := by
  unfold clearIntStatus; simp only []; split <;> rfl
@[simp] theorem clearIntStatus_passthru (v : Word) (s : State) : (clearIntStatus v s).passthru = s.passthru := by
  unfold clearIntStatus; simp only []; split <;> rfl
@[simp] theorem clearIntStatus_busy (v : Word) (s : State) : (clearIntStatus v s).busy = s.busy := by
  unfold clearIntStatus; simp only []; split <;> rfl
@[simp] theorem clearIntStatus_activeBank (v : Word) (s : State) : (clearIntStatus v s).activeBank = s.activeBank := by
  unfold clearIntStatus; simp only []; split <;> rfl
@[simp] theorem clearIntStatus_init (v : Word) (s : State) : (clearIntStatus v s).init = s.init := by
  unfold clearIntStatus; simp only []; split <;> rfl
@[simp] theorem clearIntStatus_cursor (v : Word) (s : State) : (clearIntStatus v s).cursor = s.cursor := by
  unfold clearIntStatus; simp only []; split <;> rfl
@[simp] theorem clearIntStatus_gain (v : Word) (s : State) : (clearIntStatus v s).gain = s.gain := by
  unfold clearIntStatus; simp only []; split <;> rfl
@[simp] theorem clearIntStatus_intEnable (v : Word) (s : State) : (clearIntStatus v s).intEnable = s.intEnable := by
  unfold clearIntStatus; simp only []; split <;> rfl
@[simp] theorem clearIntStatus_tickCount (v : Word) (s : State) : (clearIntStatus v s).tickCount = s.tickCount := by
  unfold clearIntStatus; simp only []; split <;> rfl
@[simp] theorem clearIntStatus_skipCount (v : Word) (s : State) : (clearIntStatus v s).skipCount = s.skipCount := by
  unfold clearIntStatus; simp only []; split <;> rfl
@[simp] theorem clearIntStatus_audioAvail (v : Word) (s : State) : (clearIntStatus v s).audioAvail = s.audioAvail := by
  unfold clearIntStatus; simp only []; split <;> rfl
@[simp] theorem clearIntStatus_pending (v : Word) (s : State) : (clearIntStatus v s).pending = s.pending := by
  unfold clearIntStatus; simp only []; split <;> rfl
@[simp] theorem clearIntStatus_mem (v : Word) (s : State) : (clearIntStatus v s).mem = s.mem := by
  unfold clearIntStatus; simp only []; split <;> rfl
@[simp] theorem clearIntStatus_host (v : Word) (s : State) : (clearIntStatus v s).host = s.host := by
  unfold clearIntStatus; simp only []; split <;> rfl
@[simp] theorem clearIntStatus_responses (v : Word) (s : State) : (clearIntStatus v s).responses = s.responses := by
  unfold clearIntStatus; simp only []; split <;> rfl
@[simp] theorem clearIntStatus_wait (v : Word) (s : State) : (clearIntStatus v s).wait = s.wait := by
  unfold clearIntStatus; simp only []; split <;> rfl
@[simp] theorem clearIntStatus_draws (v : Word) (s : State) : (clearIntStatus v s).draws = s.draws := by
  unfold clearIntStatus; simp only []; split <;> rfl
@[simp] theorem clearIntStatus_intStatus (v : Word) (s : State) :
    (clearIntStatus v s).intStatus = s.intStatus &&& ~~~ v.setWidth 5 := by
  unfold clearIntStatus; simp only []; split <;> rfl
@[simp] theorem clearIntStatus_errCode (v : Word) (s : State) :
    (clearIntStatus v s).errCode = if v.getLsbD 3 then 0 else s.errCode := by
  unfold clearIntStatus; simp only []; split <;> rfl
@[simp] theorem clearIntStatus_errCmd (v : Word) (s : State) :
    (clearIntStatus v s).errCmd = if v.getLsbD 3 then 0 else s.errCmd := by
  unfold clearIntStatus; simp only []; split <;> rfl

@[simp] theorem abandon_build (e : CmdError) (c : Word) (s : State) : (abandon e c s).build = s.build := by
  simp [abandon]
@[simp] theorem abandon_passthru (e : CmdError) (c : Word) (s : State) : (abandon e c s).passthru = s.passthru := by
  simp [abandon]
@[simp] theorem abandon_activeBank (e : CmdError) (c : Word) (s : State) : (abandon e c s).activeBank = s.activeBank := by
  simp [abandon]
@[simp] theorem abandon_init (e : CmdError) (c : Word) (s : State) : (abandon e c s).init = s.init := by
  simp [abandon]
@[simp] theorem abandon_cursor (e : CmdError) (c : Word) (s : State) : (abandon e c s).cursor = s.cursor := by
  simp [abandon]
@[simp] theorem abandon_gain (e : CmdError) (c : Word) (s : State) : (abandon e c s).gain = s.gain := by
  simp [abandon]
@[simp] theorem abandon_intEnable (e : CmdError) (c : Word) (s : State) : (abandon e c s).intEnable = s.intEnable := by
  simp [abandon]
@[simp] theorem abandon_tickCount (e : CmdError) (c : Word) (s : State) : (abandon e c s).tickCount = s.tickCount := by
  simp [abandon]
@[simp] theorem abandon_skipCount (e : CmdError) (c : Word) (s : State) : (abandon e c s).skipCount = s.skipCount := by
  simp [abandon]
@[simp] theorem abandon_audioAvail (e : CmdError) (c : Word) (s : State) : (abandon e c s).audioAvail = s.audioAvail := by
  simp [abandon]
@[simp] theorem abandon_mem (e : CmdError) (c : Word) (s : State) : (abandon e c s).mem = s.mem := by
  simp [abandon]
@[simp] theorem abandon_host (e : CmdError) (c : Word) (s : State) : (abandon e c s).host = s.host := by
  simp [abandon]
@[simp] theorem abandon_responses (e : CmdError) (c : Word) (s : State) : (abandon e c s).responses = s.responses := by
  simp [abandon]
@[simp] theorem abandon_draws (e : CmdError) (c : Word) (s : State) : (abandon e c s).draws = s.draws := by
  simp [abandon]
@[simp] theorem abandon_pending (e : CmdError) (c : Word) (s : State) :
    (abandon e c s).pending = none := by
  simp [abandon]
@[simp] theorem abandon_busy (e : CmdError) (c : Word) (s : State) :
    (abandon e c s).busy = false := by
  simp [abandon]
@[simp] theorem abandon_wait (e : CmdError) (c : Word) (s : State) :
    (abandon e c s).wait = none := by
  simp [abandon]

@[simp] theorem countDown_build (s : State) : (countDown s).build = s.build := by
  unfold countDown; split <;> rfl
@[simp] theorem countDown_passthru (s : State) : (countDown s).passthru = s.passthru := by
  unfold countDown; split <;> rfl
@[simp] theorem countDown_busy (s : State) : (countDown s).busy = s.busy := by
  unfold countDown; split <;> rfl
@[simp] theorem countDown_activeBank (s : State) : (countDown s).activeBank = s.activeBank := by
  unfold countDown; split <;> rfl
@[simp] theorem countDown_init (s : State) : (countDown s).init = s.init := by
  unfold countDown; split <;> rfl
@[simp] theorem countDown_cursor (s : State) : (countDown s).cursor = s.cursor := by
  unfold countDown; split <;> rfl
@[simp] theorem countDown_gain (s : State) : (countDown s).gain = s.gain := by
  unfold countDown; split <;> rfl
@[simp] theorem countDown_intStatus (s : State) : (countDown s).intStatus = s.intStatus := by
  unfold countDown; split <;> rfl
@[simp] theorem countDown_intEnable (s : State) : (countDown s).intEnable = s.intEnable := by
  unfold countDown; split <;> rfl
@[simp] theorem countDown_errCode (s : State) : (countDown s).errCode = s.errCode := by
  unfold countDown; split <;> rfl
@[simp] theorem countDown_errCmd (s : State) : (countDown s).errCmd = s.errCmd := by
  unfold countDown; split <;> rfl
@[simp] theorem countDown_tickCount (s : State) : (countDown s).tickCount = s.tickCount := by
  unfold countDown; split <;> rfl
@[simp] theorem countDown_skipCount (s : State) : (countDown s).skipCount = s.skipCount := by
  unfold countDown; split <;> rfl
@[simp] theorem countDown_audioAvail (s : State) : (countDown s).audioAvail = s.audioAvail := by
  unfold countDown; split <;> rfl
@[simp] theorem countDown_pending (s : State) : (countDown s).pending = s.pending := by
  unfold countDown; split <;> rfl
@[simp] theorem countDown_mem (s : State) : (countDown s).mem = s.mem := by
  unfold countDown; split <;> rfl
@[simp] theorem countDown_host (s : State) : (countDown s).host = s.host := by
  unfold countDown; split <;> rfl
@[simp] theorem countDown_responses (s : State) : (countDown s).responses = s.responses := by
  unfold countDown; split <;> rfl
@[simp] theorem countDown_draws (s : State) : (countDown s).draws = s.draws := by
  unfold countDown; split <;> rfl
@[simp] theorem countDown_wait (s : State) :
    (countDown s).wait = if engineWork s then some (remaining s - 1) else s.wait := by
  unfold countDown; split <;> rfl

@[simp] theorem platformReset_build (s : State) : (platformReset s).build = s.build := rfl
@[simp] theorem platformReset_passthru (s : State) : (platformReset s).passthru = false := rfl
@[simp] theorem platformReset_busy (s : State) : (platformReset s).busy = true := rfl
@[simp] theorem platformReset_activeBank (s : State) : (platformReset s).activeBank = false := rfl
@[simp] theorem platformReset_init (s : State) : (platformReset s).init = true := rfl
@[simp] theorem platformReset_cursor (s : State) : (platformReset s).cursor = 0 := rfl
@[simp] theorem platformReset_gain (s : State) : (platformReset s).gain = 0x3F800000 := rfl
@[simp] theorem platformReset_intStatus (s : State) : (platformReset s).intStatus = 0 := rfl
@[simp] theorem platformReset_intEnable (s : State) : (platformReset s).intEnable = 0 := rfl
@[simp] theorem platformReset_errCode (s : State) : (platformReset s).errCode = 0 := rfl
@[simp] theorem platformReset_errCmd (s : State) : (platformReset s).errCmd = 0 := rfl
@[simp] theorem platformReset_tickCount (s : State) : (platformReset s).tickCount = 0 := rfl
@[simp] theorem platformReset_skipCount (s : State) : (platformReset s).skipCount = 0 := rfl
@[simp] theorem platformReset_audioAvail (s : State) : (platformReset s).audioAvail = 0 := rfl
@[simp] theorem platformReset_pending (s : State) : (platformReset s).pending = none := rfl
@[simp] theorem platformReset_mem (s : State) : (platformReset s).mem = s.mem := rfl
@[simp] theorem platformReset_host (s : State) : (platformReset s).host = s.host := rfl
@[simp] theorem platformReset_responses (s : State) : (platformReset s).responses = s.responses := rfl
@[simp] theorem platformReset_wait (s : State) : (platformReset s).wait = none := rfl
@[simp] theorem platformReset_draws (s : State) : (platformReset s).draws = s.draws + 1 := rfl

/-- Taking a command error while ERR is 0 records it and sets ERR (R224). -/
theorem recordCmdError_first (e : CmdError) (c : Word) (s : State) (h : errFlag s.intStatus = false) :
    recordCmdError e c s
      = { s with errCode := errorCode e, errCmd := c, intStatus := s.intStatus ||| flagErr } := by
  simp [recordCmdError, h, raiseFlags]

/-- Taking a command error while ERR is 1 only sets ERR_OVF (R224). -/
theorem recordCmdError_later (e : CmdError) (c : Word) (s : State) (h : errFlag s.intStatus = true) :
    recordCmdError e c s = { s with intStatus := s.intStatus ||| flagErrOvf } := by
  simp [recordCmdError, h, raiseFlags]

end Sys2Proof.Machine
end

