-- ==== Sys2Proof/Laws/Ops.lean ====
section
/-! SUPPORT. What the shared operations can do, said once: performing a command, its operand checks, issuing a
command, the bus's admission of an access. -/

namespace Sys2Proof.Machine

/-- A command whose operand checks hold has its effect and completes. -/
theorem perform_of_ok (i : Instr) (f : State → State) (s : State) (h : operandError s.build s.activeBank i = none) :
    perform i f s = .next (complete (f s)) := by simp [perform, h]

/-- A command whose operand checks fail is abandoned with the error they give. -/
theorem perform_of_error (i : Instr) (f : State → State) (s : State) (e : CmdError)
    (h : operandError s.build s.activeBank i = some e) : perform i f s = .next (abandon e (encode i) s) := by
  simp [perform, h]

/-- Everything that performing a command can do. -/
theorem perform_cases (i : Instr) (f : State → State) (s t : State) (h : perform i f s = .next t) :
    (operandError s.build s.activeBank i = none ∧ t = complete (f s)) ∨
      ∃ e, operandError s.build s.activeBank i = some e ∧ t = abandon e (encode i) s := by
  unfold perform at h
  split at h <;> rename_i he
  · exact .inr ⟨_, he, by simpa using h.symm⟩
  · exact .inl ⟨he, by simpa using h.symm⟩

/-- The operand checks hold exactly when every named block is implemented and the destination, if there is one, is
outside the active bank. -/
theorem operandError_eq_none_iff (b : Build) (bank : Bool) (i : Instr) :
    operandError b bank i = none
      ↔ i.wellFormed b = true ∧ ∀ d, i.dest? = some d → inBank b bank d.toNat = false := by
  unfold operandError
  by_cases hw : i.wellFormed b = true
  · cases hd : i.dest? with
    | none => simp [hw]
    | some d => by_cases hb : inBank b bank d.toNat = true <;> simp [hw, hb]
  · simp [hw]

/-- The only errors of the operand checks are ERR_BLOCK_RANGE and, after it, ERR_ACTIVE_TF (R222). -/
theorem operandError_cases (b : Build) (bank : Bool) (i : Instr) (e : CmdError) (h : operandError b bank i = some e) :
    (e = .blockRange ∧ i.wellFormed b = false) ∨
      (e = .activeTf ∧ i.wellFormed b = true ∧ ∃ d, i.dest? = some d ∧ inBank b bank d.toNat = true) := by
  unfold operandError at h
  by_cases hw : i.wellFormed b = true
  · cases hd : i.dest? with
    | none => simp [hw, hd] at h
    | some d =>
      by_cases hb : inBank b bank d.toNat = true
      · simp only [hw, hd, hb] at h
        exact .inr ⟨by simpa using h.symm, hw, d, rfl, hb⟩
      · simp [hw, hd, hb] at h
  · exact .inl ⟨by simpa [hw] using h.symm, by simpa using hw⟩

/-- Everything a CMD write can do (R222, R223). -/
theorem issue_cases (c : Word) (s : State) :
    (issueError s c = none ∧ issue c s = accept c s) ∨
      ∃ e, issueError s c = some e ∧ issue c s = recordCmdError e c s := by
  unfold issue
  cases h : issueError s c with
  | none => exact .inl ⟨rfl, rfl⟩
  | some e => exact .inr ⟨e, rfl, rfl⟩

/-- A word is accepted exactly when the block is idle, it decodes, and its operand checks hold (R222). -/
theorem issueError_eq_none_iff (s : State) (c : Word) :
    issueError s c = none
      ↔ s.busy = false ∧ ∃ i, decode c = .ok i ∧ operandError s.build s.activeBank i = none := by
  unfold issueError
  cases hb : s.busy with
  | true => simp
  | false => cases hd : decode c with
    | error e => simp
    | ok i => simp

/-- Everything the bus's admission of an access rests on (R230). -/
theorem accessTarget_eq_some_iff (s : State) (w : Bool) (size a : Nat) (t : Target) :
    accessTarget s w size a = some t ↔
      size = 4 ∧ a % 4 = 0 ∧ targetAt? s.build a = some t ∧ (s.busy && busyRefused w t) = false ∧
        bankRefused s.build s.activeBank w t = false := by
  unfold accessTarget
  by_cases hs : size ≠ 4 ∨ a % 4 ≠ 0
  · rw [if_pos hs]
    refine ⟨fun h => by simp at h, fun h => ?_⟩
    rcases hs with hs | hs
    · exact absurd h.1 hs
    · exact absurd h.2.1 hs
  · rw [if_neg hs]
    have hs' : size = 4 ∧ a % 4 = 0 := by omega
    cases ht : targetAt? s.build a with
    | none => simp
    | some t' =>
      by_cases hr : ((s.busy && busyRefused w t') || bankRefused s.build s.activeBank w t') = true
      · simp only [hr, if_true]
        refine ⟨fun h => by simp at h, fun ⟨_, _, h3, h4, h5⟩ => ?_⟩
        cases h3
        simp [h4, h5] at hr
      · simp only [hr]
        refine ⟨fun h => ?_, fun h => by simp [h.2.2.1]⟩
        cases h
        simp only [Bool.or_eq_true, not_or, Bool.not_eq_true] at hr
        exact ⟨hs'.1, hs'.2, rfl, hr.1, hr.2⟩

/-- A refused write changes nothing but the bus response (R230). -/
theorem hostWrite_refused (size a : Nat) (v : Word) (s : State) (h : accessTarget s true size a = none) :
    hostWrite size a v s = respond (.write true) s := by simp [hostWrite, h]

/-- An admitted write does what its target's rule says (R75 to R77). -/
theorem hostWrite_admitted (size a : Nat) (v : Word) (s : State) (t : Target)
    (h : accessTarget s true size a = some t) :
    hostWrite size a v s = respond (.write false) (writeTarget t v s) := by simp [hostWrite, h]

/-- A read changes nothing but the bus response (R75). -/
theorem hostRead_eq_respond (size a : Nat) (s : State) : ∃ r, hostRead size a s = respond r s := by
  unfold hostRead; split <;> exact ⟨_, rfl⟩

end Sys2Proof.Machine
end

