-- ==== Sys2Proof/Laws/PerInstr.lean ====
section
/-! SUPPORT. A property of every command, one lemma per constructor: its encoding carries its row's opcode and matches
its row of the table. -/

namespace Sys2Proof.Laws

/-- The four fields of a command word read back (R101, R102). -/
theorem fields_commandWord (op : BitVec 5) (c bf a : BlockIdx) :
    fieldOp (commandWord op c bf a) = op.toNat ∧ fieldC (commandWord op c bf a) = c ∧
      fieldB (commandWord op c bf a) = bf ∧ fieldA (commandWord op c bf a) = a := by
  refine ⟨?_, ?_, ?_, ?_⟩
  · simp only [fieldOp, commandWord]
    rw [BitVec.extractLsb'_append_eq_of_le (by omega), BitVec.extractLsb'_append_eq_of_le (by omega),
      BitVec.extractLsb'_append_eq_of_le (by omega)]
    simp
  · simp only [fieldC, commandWord]
    rw [BitVec.extractLsb'_append_eq_of_le (by omega), BitVec.extractLsb'_append_eq_of_le (by omega)]
    exact BitVec.extractLsb'_append_eq_right
  · simp only [fieldB, commandWord]
    rw [BitVec.extractLsb'_append_eq_of_le (by omega)]
    exact BitVec.extractLsb'_append_eq_right
  · exact BitVec.extractLsb'_append_eq_right

/-- Masking a command word masks its fields. -/
theorem commandWord_and (op op' : BitVec 5) (c c' bf bf' a a' : BlockIdx) :
    commandWord op c bf a &&& commandWord op' c' bf' a'
      = commandWord (op &&& op') (c &&& c') (bf &&& bf') (a &&& a') := by
  refine (BitVec.and_append (x₁ := op ++ c ++ bf) (x₂ := op' ++ c' ++ bf') (y₁ := a) (y₂ := a')).trans ?_
  rw [BitVec.and_append, BitVec.and_append]
  rfl

/-- The encoding of a command carries its row's opcode, and its row's zeros in every field it does not use (R103,
R104). -/
def EncodingFitsRow.Statement (i : Instr) : Prop :=
  ∃ row, opTable[fieldOp (encode i)]? = some row ∧ encode i &&& row.mask = row.matchWord

theorem fitsRow_of_fields (i : Instr) (op mop : BitVec 5) (c bf a mc mb ma : BlockIdx) (row : OpRow)
    (he : encode i = commandWord op c bf a) (hr : opTable[op.toNat]? = some row)
    (hm : row.mask = commandWord mop mc mb ma)
    (hw : row.matchWord = commandWord (op &&& mop) (c &&& mc) (bf &&& mb) (a &&& ma)) :
    EncodingFitsRow.Statement i := by
  refine ⟨row, ?_, ?_⟩
  · rw [he, (fields_commandWord op c bf a).1, hr]
  · rw [he, hm, hw, commandWord_and]

theorem EncodingFitsRow.nop : EncodingFitsRow.Statement .nop := ⟨_, rfl, by decide⟩

theorem EncodingFitsRow.clear (dst : BlockIdx) : EncodingFitsRow.Statement (.clear dst) :=
  fitsRow_of_fields _ 0x01 0x1F 0 0 dst 0x1FF 0x1FF 0 _ rfl rfl (by decide) (by simp; decide)

theorem EncodingFitsRow.copy (dst src : BlockIdx) : EncodingFitsRow.Statement (.copy dst src) :=
  fitsRow_of_fields _ 0x02 0x1F 0 src dst 0x1FF 0 0 _ rfl rfl (by decide) (by simp; decide)

theorem EncodingFitsRow.cmac (acc a b : BlockIdx) : EncodingFitsRow.Statement (.cmac acc a b) :=
  fitsRow_of_fields _ 0x03 0x1F b a acc 0 0 0 _ rfl rfl (by decide) (by simp; decide)

theorem EncodingFitsRow.fft (blk : BlockIdx) : EncodingFitsRow.Statement (.fft blk) :=
  fitsRow_of_fields _ 0x04 0x1F 0 0 blk 0x1FF 0x1FF 0 _ rfl rfl (by decide) (by simp; decide)

theorem EncodingFitsRow.ifft (blk : BlockIdx) : EncodingFitsRow.Statement (.ifft blk) :=
  fitsRow_of_fields _ 0x05 0x1F 0 0 blk 0x1FF 0x1FF 0 _ rfl rfl (by decide) (by simp; decide)

theorem EncodingFitsRow.part (dst src : BlockIdx) : EncodingFitsRow.Statement (.part dst src) :=
  fitsRow_of_fields _ 0x06 0x1F 0 src dst 0x1FF 0 0 _ rfl rfl (by decide) (by simp; decide)

theorem EncodingFitsRow.tick : EncodingFitsRow.Statement .tick := ⟨_, rfl, by decide⟩

theorem EncodingFitsRow.commit : EncodingFitsRow.Statement .commit := ⟨_, rfl, by decide⟩

theorem EncodingFitsRow.clrstate : EncodingFitsRow.Statement .clrstate := ⟨_, rfl, by decide⟩

end Sys2Proof.Laws
end

