-- ==== Sys2Proof/Laws/Step.lean ====
section
/-! SUPPORT. Everything a step can do, said once: INIT ends, the pending command's step runs, or the host's next
operation goes. -/

namespace Sys2Proof.Machine

/-- The command the engine runs next is the decoded pending word, outside INIT. -/
theorem fetch?_eq_some_iff (s : State) (i : Instr) :
    fetch? s = some i ↔ s.init = false ∧ ∃ c, s.pending = some c ∧ decode c = .ok i := by
  unfold fetch?
  cases s.init <;> cases s.pending with
  | none => simp
  | some c => cases h : decode c <;> simp [h, Except.toOption]

/-- Everything a step that answers a next state can do. -/
theorem step_cases (s t : State) (h : step s = .next t) :
    (engineTurn s = true ∧ s.init = true ∧ t = endInit s) ∨
      (engineTurn s = true ∧ s.init = false ∧ ∃ c i, s.pending = some c ∧ decode c = .ok i ∧ exec i s = .next t) ∨
        (engineTurn s = false ∧ t = hostStep s) := by
  unfold step event at h
  cases hturn : engineTurn s with
  | false => rw [hturn] at h; exact .inr (.inr ⟨rfl, by simpa using h.symm⟩)
  | true =>
    rw [hturn, if_pos rfl, engineStep] at h
    cases hi : s.init with
    | true => rw [hi] at h; exact .inl ⟨rfl, rfl, by simpa using h.symm⟩
    | false =>
      rw [hi] at h
      cases hf : fetch? s with
      | none => rw [hf] at h; simp at h
      | some i =>
        rw [hf] at h
        obtain ⟨_, c, hc, hd⟩ := (fetch?_eq_some_iff s i).1 hf
        exact .inr (.inl ⟨rfl, rfl, c, i, hc, hd, by simpa using h⟩)

/-- Everything one host operation can do: the access it makes, a poll that finds BUSY 1 and stays first, a poll that
finds it 0, or a reset. -/
theorem hostOp_cases (op : HostOp) (s : State) :
    (∃ size a, op = .read size a ∧ hostOp op s = hostRead size a s) ∨
      (∃ size a v, op = .write size a v ∧ hostOp op s = hostWrite size a v s) ∨
        (op = .waitIdle ∧ ∃ r, hostOp op s
          = { respond r s with host := if s.busy then .waitIdle :: s.host else s.host }) ∨
          (op = .reset ∧ hostOp op s = platformReset s) := by
  cases op with
  | read size a => exact .inl ⟨size, a, rfl, rfl⟩
  | write size a v => exact .inr (.inl ⟨size, a, v, rfl, rfl⟩)
  | reset => exact .inr (.inr (.inr ⟨rfl, rfl⟩))
  | waitIdle =>
    obtain ⟨r, hr⟩ := hostRead_eq_respond 4 (regOffset .status) s
    refine .inr (.inr (.inl ⟨rfl, r, ?_⟩))
    simp only [hostOp, hr]
    cases s.busy <;> rfl

end Sys2Proof.Machine
end

