-- ==== Sys2Proof/Tests/Slice0.lean ====
section
/-! SUPPORT. The model's own tests: the well-formedness smoke test, one word for every command and every decode
error, the spec's small test vectors (95_test_vectors.md), and for each obligation with hypotheses a concrete state
and operands that meet them. -/

namespace Sys2Proof.Tests

open Sys2Proof Sys2Proof.Machine

-- One theorem at a time: checking the tests in parallel asks for a thread each.
set_option Elab.async false

/-! ## Small states -/

/-- The smallest block: `P = 1`, `B = 2`, so `N = 4`, `L = 8` and 13 blocks; SCR0 is block 9. -/
def tiny : Build := ⟨0, 0⟩

/-- The block of V-ALIAS: `P = 1`, `B = 4`; SCR0 is block 9. -/
def small : Build := ⟨0, 1⟩

/-- A block right after INIT (R252). -/
def idle (b : Build) : State := { State.reset with build := b, busy := false, init := false }

/-- A block with word `w` of block `b` holding `v`. -/
def put (b w : Nat) (v : Word) (s : State) : State := { s with mem := writeWord s.mem (elmAddr b w) v }

/-- A block with consecutive words from word 0 of block `b`. -/
def putAll (b : Nat) (ws : List Word) (s : State) : State := { s with mem := writeBlock s.mem b ws }

/-- A block with sample `k` of a buffer holding `v`. -/
def putSample (x : AudioBuf) (k : Nat) (v : Sample) (s : State) : State :=
  { s with mem := writeSample s.mem (audioAddr x k) v }

/-- A block with command word `c` pending and due. -/
def due (c : Word) (s : State) : State := s.withFetchWord 32 c.toNat

/-- A step's outcome is a next state. -/
def answers (o : Host.Outcome State Fault Refusal) : Bool :=
  match o with
  | .next _ => true
  | .fault _ => false
  | .refused _ => false

/-- The state an outcome leads to; the reset state where it stops. -/
def after (o : Host.Outcome State Fault Refusal) : State :=
  match o with
  | .next t => t
  | .fault _ => State.reset
  | .refused _ => State.reset

theorem next_after (o : Host.Outcome State Fault Refusal) (h : answers o = true) : o = .next (after o) := by
  cases o <;> simp_all [answers, after]

/-- The first `n` words of block `b`. -/
def firstWords (s : State) (b n : Nat) : List Word := (List.range n).map (elmWord s b)

/-- The first `n` samples of a buffer, as integers. -/
def firstSamples (s : State) (x : AudioBuf) (n : Nat) : List Int :=
  (List.range n).map fun k => (sampleAt s x k).toInt

/-- STATUS, ERR_CODE, ERR_CMD and INT_STATUS. -/
def errorView (s : State) : Nat × Nat × Nat × Nat :=
  ((readReg s .status).toNat, (readReg s .errCode).toNat, (readReg s .errCmd).toNat, (readReg s .intStatus).toNat)

/-! ## WellFormed: block 327 is the last of the hardware, block 328 is refused in every operand place (R107) -/

theorem test_wellFormed_accepts :
    (Instr.clear 327).wellFormed .hardware = true ∧ (Instr.copy 327 0).wellFormed .hardware = true ∧
      (Instr.cmac 327 327 327).wellFormed .hardware = true ∧ Instr.tick.wellFormed .hardware = true := by decide

theorem test_wellFormed_refuses :
    (Instr.clear 328).wellFormed .hardware = false ∧ (Instr.copy 328 0).wellFormed .hardware = false ∧
      (Instr.copy 0 328).wellFormed .hardware = false ∧ (Instr.cmac 328 0 0).wellFormed .hardware = false ∧
      (Instr.cmac 0 328 0).wellFormed .hardware = false ∧ (Instr.cmac 0 0 328).wellFormed .hardware = false ∧
      (Instr.fft 328).wellFormed .hardware = false ∧ (Instr.ifft 511).wellFormed .hardware = false ∧
      (Instr.part 328 0).wellFormed .hardware = false ∧ (Instr.part 0 328).wellFormed .hardware = false := by decide

/-! ## Decode: a word for every command, from the listings of 95_test_vectors.md and the fields of R103 -/

theorem test_decode_nop : decodeTableWord 32 0b00000000000000000000000000000000 = some .nop := by decide
theorem test_decode_clear : decodeTableWord 32 0b00001000000000000000000101000100 = some (.clear 0x144) := by decide
theorem test_decode_copy : decodeTableWord 32 0b00010000000000101000100101000101 = some (.copy 0x145 0x144) := by decide
theorem test_decode_cmac :
    decodeTableWord 32 0b00011101000101101000100101000111 = some (.cmac 0x147 0x144 0x145) := by decide
theorem test_decode_fft : decodeTableWord 32 0b00100000000000000000000101000100 = some (.fft 0x144) := by decide
theorem test_decode_ifft : decodeTableWord 32 0b00101000000000000000000101000111 = some (.ifft 0x147) := by decide
theorem test_decode_part : decodeTableWord 32 0b00110000000000101000100010000000 = some (.part 0x080 0x144) := by decide
theorem test_decode_tick : decodeTableWord 32 0b00111000000000000000000000000000 = some .tick := by decide
theorem test_decode_commit : decodeTableWord 32 0b01000000000000000000000000000000 = some .commit := by decide
theorem test_decode_clrstate : decodeTableWord 32 0b01001000000000000000000000000000 = some .clrstate := by decide

/-- R105 and R106: reserved opcodes and nonzero unused fields, by name. -/
theorem test_decode_rejects :
    decode 0x50000000 = .error .illegalOpcode ∧ decode 0xF8000000 = .error .illegalOpcode ∧
      decode 0x58000001 = .error .illegalOpcode ∧ decode 0x00000001 = .error .reservedField ∧
      decode 0x38000001 = .error .reservedField ∧ decode 0x08000200 = .error .reservedField ∧
      decode 0x20000344 = .error .reservedField ∧ decode 0x40000200 = .error .reservedField ∧
      decode 0x14028945 = .error .reservedField ∧ decodeBytes [0, 0, 0] = .error .badLength := by decide

/-- Host byte order (R73): the low byte lane first. -/
theorem test_decode_bytes : decodeBytes [0x47, 0x89, 0x16, 0x1D] = .ok (.cmac 0x147 0x144 0x145) := by decide

/-! ## Arithmetic: the tables of 95_test_vectors.md section 2 -/

theorem test_fadd :
    fadd 0x3F800000 0x33800000 = 0x3F800000 ∧ fadd 0x3F800000 0x34400000 = 0x3F800002 ∧
      fadd 0x3F800001 0x33800000 = 0x3F800002 ∧ fadd 0 0x80000000 = 0 ∧
      fadd 0x80000000 0x80000000 = 0x80000000 ∧ fadd 0x3F800000 0xBF800000 = 0 ∧
      fadd 0x7F800000 0xFF800000 = 0x7FC00000 ∧ fadd 0x7F7FFFFF 0x7F7FFFFF = 0x7F800000 ∧
      fadd 0x00800000 0x80000001 = 0x007FFFFF := by decide +kernel

theorem test_fsub :
    fsub 0x3F800000 0x3F800000 = 0 ∧ fsub 0x80000000 0x80000000 = 0 ∧ fsub 0x80000000 0 = 0x80000000 := by
  decide +kernel

theorem test_fmul :
    fmul 0x80000000 0x40A00000 = 0x80000000 ∧ fmul 0xFF800000 0x80000000 = 0x7FC00000 ∧
      fmul 0x00800000 0x3F000000 = 0x00400000 ∧ fmul 0x00000001 0x3F000000 = 0 ∧
      fmul 0x00000003 0x3F000000 = 0x00000002 ∧ fmul 0x7F7FFFFF 0x40000000 = 0x7F800000 ∧
      fmul 0x3F800001 0x3F800001 = 0x3F800002 ∧ fmul 0xC0400000 0x7F800000 = 0xFF800000 := by decide +kernel

theorem test_i2f :
    i2f 0x8000 = 0xC7000000 ∧ i2f 0x7FFF = 0x46FFFE00 ∧ i2f 0 = 0 ∧ i2f 1 = 0x3F800000 ∧
      i2f 0xFFFF = 0xBF800000 ∧ i2f 1000 = 0x447A0000 := by decide +kernel

theorem test_f2i16 :
    f2i16 0x40200000 = 2 ∧ f2i16 0x40600000 = 4 ∧ f2i16 0xC0200000 = 0xFFFE ∧ f2i16 0x3FC00000 = 2 ∧
      f2i16 0x46FFFF00 = 0x7FFF ∧ f2i16 0xC7000080 = 0x8000 ∧ f2i16 0xC7000100 = 0x8000 ∧
      f2i16 0x7FC00000 = 0 ∧ f2i16 0xFF800000 = 0x8000 := by decide +kernel

/-- R141: entries of the twiddle ROM that the vectors V-F3 and V-N4 show. -/
theorem test_twiddles :
    twc 8 1 = 0x3F7FEC43 ∧ tws 8 1 = 0x3CC90AB0 ∧ twc 8 32 = 0x3F3504F3 ∧ twc 8 64 = 0 ∧ tws 8 64 = 0x3F800000 ∧
      twc 3 3 = 0xBF3504F3 ∧ twc 2 1 = 0 ∧ tws 2 1 = 0x3F800000 := by decide +kernel

/-! ## Commands: the vectors of sections 3 to 6 on small blocks -/

/-- V-NOP. -/
theorem test_nop : after (exec .nop (idle tiny)) = { idle tiny with intStatus := 0x01 } := by decide +kernel

/-- V-CLR: −0 and a NaN are cleared. -/
theorem test_clear :
    firstWords (after (exec (.clear 9) (put 9 7 0x7FC00000 (put 9 0 0x80000000 (idle tiny))))) 9 8
      = [0, 0, 0, 0, 0, 0, 0, 0] := by decide +kernel

/-- V-CPY: patterns are kept, a signalling NaN and −0 among them. -/
theorem test_copy :
    firstWords (after (exec (.copy 10 9) (putAll 9 [0x7FA00001, 0x80000000] (idle tiny)))) 10 2
      = [0x7FA00001, 0x80000000] := by decide +kernel

/-- V-CPY-TF: a source in the active bank may be read. -/
theorem test_copy_from_active_bank : issueError (idle .hardware) 0x10000B44 = none := by decide +kernel

/-- V-CM1. -/
theorem test_cmac :
    firstWords (after (exec (.cmac 11 9 10) (putAll 9 [0x3F800000, 0x40000000]
      (putAll 10 [0x40400000, 0x40800000] (putAll 11 [0x41200000, 0x41A00000] (idle tiny)))))) 11 2
      = [0x40A00000, 0x41F00000] := by decide +kernel

/-- V-CM2: all three operands coincide. -/
theorem test_cmac_same_block :
    firstWords (after (exec (.cmac 9 9 9) (putAll 9 [0x3F800000, 0x40000000] (idle tiny)))) 9 2
      = [0xC0000000, 0x40C00000] := by decide +kernel

/-- V-N4, forward. -/
theorem test_fft :
    firstWords (after (exec (.fft 9) (putAll 9 [0x3F800000, 0, 0x40000000, 0, 0x40400000, 0, 0x40800000, 0]
      (idle tiny)))) 9 8
      = [0x41200000, 0, 0xC0000000, 0x40000000, 0xC0000000, 0, 0xC0000000, 0xC0000000] := by decide +kernel

/-- V-N4, inverse. -/
theorem test_ifft :
    firstWords (after (exec (.ifft 9) (putAll 9
      [0x41200000, 0, 0xC0000000, 0x40000000, 0xC0000000, 0, 0xC0000000, 0xC0000000] (idle tiny)))) 9 8
      = [0x3F800000, 0, 0x40000000, 0, 0x40400000, 0, 0x40800000, 0] := by decide +kernel

/-- V-P1 and V-P4 at `N = 4`: an impulse gives `(-1)^k`, and words from `B` on are not read. -/
theorem test_part :
    firstWords (after (exec (.part 2 9) (putAll 9 [0x3F800000, 0, 0x40400000, 0x7FC00000] (idle tiny)))) 2 8
      = [0x3F800000, 0, 0xBF800000, 0, 0x3F800000, 0, 0xBF800000, 0] := by decide +kernel

/-- V-C1, with a history to clear. -/
theorem test_commit :
    let t := after (exec .commit (put 8 0 0x3F800000 (put 4 3 0x3F800000 (put 2 1 0x40000000 (idle tiny)))))
    readReg t .status = 0x2 ∧ firstWords t 4 8 = List.replicate 8 0 ∧ firstWords t 8 8 = List.replicate 8 0 ∧
      elmWord t 2 1 = 0x40000000 := by decide +kernel

/-- V-CS: the history and the cursor are cleared, WIN and TICK_COUNT kept. -/
theorem test_clrstate :
    let t := after (exec .clrstate
      { put 43 0 0x3F800000 (put 40 3 0x3F800000 (put 39 1 0x3F800000 (idle ⟨7, 0⟩))) with
        cursor := 5, tickCount := 5 })
    t.cursor = 0 ∧ t.tickCount = 5 ∧ elmWord t 39 1 = 0 ∧ elmWord t 43 0 = 0 ∧ elmWord t 40 3 = 0x3F800000 := by
  decide +kernel

/-- The block of V-ALIAS before tick 0: filter `[0, 1, 0, 0]` in bank 1, which is active, and IN_L = [0, 0, 0, 1]. -/
def aliasing : State :=
  let loaded := after (exec (.part 2 9) (put 9 1 0x3F800000 (idle small)))
  putSample .inL 3 1 { loaded with activeBank := true, audioAvail := 0xF }

/-- V-ALIAS, tick 0. -/
theorem test_tick_convolves :
    let t := after (exec .tick aliasing)
    firstSamples t .outL 4 = [1, 0, 0, 0] ∧ firstSamples t .outR 4 = [0, 0, 0, 0] ∧ t.cursor = 0 ∧
      t.tickCount = 1 ∧ t.audioAvail = 0 ∧ t.intStatus = 0x3 := by decide +kernel

/-- V-SK. -/
theorem test_tick_skips :
    after (exec .tick { idle tiny with audioAvail := 0x7 })
      = { idle tiny with audioAvail := 0x7, skipCount := 1, intStatus := 0x5 } := by decide +kernel

/-! ## Errors, the bus, reset and INIT: the vectors of section 7 -/

/-- The block after one host write to CMD. -/
def cmd (c : Word) (s : State) : State := hostWrite 4 0x010 c s

/-- The start state of section 7. -/
def quiet : State := { idle .hardware with intEnable := 0x1C }

/-- V-E1 to V-E3. -/
theorem test_error_record :
    errorView (cmd 0x50000000 quiet) = (0, 2, 0x50000000, 0x08) ∧
      errorView (cmd 0x08000148 (cmd 0x50000000 quiet)) = (0, 2, 0x50000000, 0x18) ∧
      errorView (hostWrite 4 0x01C 0x18 (cmd 0x08000148 (cmd 0x50000000 quiet))) = (0, 0, 0, 0) ∧
      irq (cmd 0x50000000 quiet) = true := by decide +kernel

/-- V-E4 to V-E9: which check comes first. -/
theorem test_error_order :
    issueError quiet 0x08000000 = some .activeTf ∧ issueError quiet 0x38000001 = some .reservedField ∧
      issueError quiet 0xF8000000 = some .illegalOpcode ∧ issueError quiet 0x58000001 = some .illegalOpcode ∧
      issueError quiet 0x08000200 = some .reservedField ∧ issueError quiet 0x18069000 = some .blockRange ∧
      issueError quiet 0x20000148 = some .blockRange ∧ issueError quiet 0x30028843 = some .activeTf := by
  decide +kernel

/-- V-BUSY (a): a command while one is pending. -/
theorem test_error_busy :
    let s := cmd 0x00000000 (cmd 0x38000000 quiet)
    errorView s = (1, 1, 0, 0x08) ∧ s.pending = some 0x38000000 ∧ accessTarget s true 4 0x1000 = none ∧
      accessTarget s true 4 0x008 = none ∧ accessTarget s false 4 0x008 = some (.reg .ctrl) := by decide +kernel

/-- The BusError vectors, and the allowed write below them. -/
theorem test_bus_errors :
    accessTarget quiet false 4 0x038 = none ∧ accessTarget quiet false 4 0x1002 = none ∧
      accessTarget quiet false 2 0x1000 = none ∧
      accessTarget quiet false 4 0x1800 = none ∧ accessTarget quiet false 4 0x1A4000 = none ∧
      accessTarget quiet true 4 0x100000 = none ∧ accessTarget quiet false 4 0x100000 = some (.elm 0 0) ∧
      accessTarget quiet true 4 0x140000 = some (.elm 0x080 0) := by decide +kernel

/-- V-INIT. -/
theorem test_init :
    readReg State.reset .status = 0x5 ∧ errorView (cmd 0 State.reset) = (5, 1, 0, 0x08) ∧
      accessTarget State.reset false 4 0x1000 = none ∧ readReg (after (step State.reset)) .status = 0 := by
  decide +kernel

/-- The sign of a sample, and the ignored half of a sample's word (V-PT, R76). -/
theorem test_sample_words :
    (hostRead 4 0x1200 (hostWrite 4 0x1200 0xFFFF8000 quiet)).responses.head? = some (.read 0xFFFF8000 false) ∧
      (hostRead 4 0x1204 (hostWrite 4 0x1204 0x00017FFF quiet)).responses.head? = some (.read 0x00007FFF false) := by
  decide +kernel

theorem test_reset_memory_wf : State.reset.mem.wf = true ∧ State.reset.sound = true := by decide +kernel

/-- R109 to R112: a command line, a pseudo-instruction, host statements, and lines that are refused. -/
theorem test_assembler :
    assembleLine .hardware "CMAC SCR3, SCR0, 0x145 ; 1D168947".toList = .ok (some (.command 0x1D168947)) ∧
      assembleLine .hardware "LOADTF 1, 0, 0, SCR0".toList = .ok (some (.command 0x30028880)) ∧
      assembleLine .hardware "W32 0x034, 0xF".toList = .ok (some (.w32 0x034 0xF)) ∧
      assembleLine .hardware "R32 0x024 -> code".toList = .ok (some (.r32 0x024 ['c', 'o', 'd', 'e'])) ∧
      assembleLine .hardware "CLEAR TF0L[64]".toList = .error .badSubscript ∧
      assembleLine .hardware "CLEAR 512".toList = .error .outOfRange ∧
      assembleLine .hardware "HALT".toList = .error .unknownMnemonic := by decide +kernel

/-! ## Witnesses: a concrete state and operands that meet each obligation's hypotheses, at the boundary values of
each clause -/

/-- A NOP pending, with host operations left. -/
def waiting : State := { idle .hardware with pending := some 0, busy := true, wait := some 3, host := [.read 4 0x00C] }

theorem test_witness_WordIsACommandExactlyWhenItMatchesItsRow :
    (0x09, 0x48000000, 0xFFFFFFFF) ∈ [(0x09, (0x48000000 : Word), (0xFFFFFFFF : Word))] ∧
      (0x48000000 : Word) &&& 0xFFFFFFFF = 0x48000000 ∧ decode 0x48000000 = .ok .clrstate ∧
      fieldOp (encode .clrstate) = 0x09 ∧ decode 0x48000001 = .error .reservedField := by decide

theorem test_witness_StepRunsTheDecodedPendingCommand :
    engineTurn (due 0x08000144 quiet) = true ∧ (due 0x08000144 quiet).init = false ∧
      (due 0x08000144 quiet).pending = some 0x08000144 ∧ decode 0x08000144 = .ok (.clear 0x144) := by decide +kernel

theorem test_witness_PlacedWordIsRunByTheNextStep : decodeTableWord 32 0x1D168947 = some (.cmac 0x147 0x144 0x145) := by
  decide

theorem test_witness_EngineIsIdleWithoutWork :
    (quiet.init = false ∧ quiet.pending = none ∧ quiet.host = []) ∧
      (let s := { quiet with host := [.waitIdle] }
       s.init = false ∧ s.pending = none ∧ s.host = .waitIdle :: []) ∧
      (waiting.init = false ∧ waiting.pending.isSome = true ∧ waiting.host = .read 4 0x00C :: [] ∧
        waiting.wait = some (2 + 1)) := by
  decide

/-- One word for each case of the issue rule: busy, the least reserved opcode, a reserved field, block 328, the last
block of the active bank, and an accepted command on the first block after it. -/
theorem test_witness_CmdWriteRunsTheIssueChecksInOrder :
    waiting.busy = true ∧ quiet.busy = false ∧ fieldOp 0x50000000 = 0x0A ∧
      issueError quiet 0x0C000000 = some .reservedField ∧ issueError quiet 0x08000148 = some .blockRange ∧
      issueError quiet 0x0800007F = some .activeTf ∧ issueError quiet 0x08000080 = none := by decide +kernel

theorem test_witness_RejectedCommandOnlyRecordsItsError :
    (issueError quiet 0x50000000 = some .illegalOpcode ∧ quiet.intStatus.getLsbD 3 = false) ∧
      (let s := cmd 0x50000000 quiet
       issueError s 0x08000148 = some .blockRange ∧ s.intStatus.getLsbD 3 = true) ∧
      issueError waiting 0 = some .busy ∧ issueError quiet 0x00000001 = some .reservedField ∧
      issueError quiet 0x0800007F = some .activeTf := by decide +kernel

theorem test_witness_RefusedAccessHasNoEffect :
    accessTarget quiet false 2 0x1000 = none ∧ accessTarget quiet true 4 0x1002 = none ∧
      targetAt? Build.hardware 0x038 = none ∧
      (waiting.busy = true ∧ busyRefused false (.elm 0x144 0) = true ∧
        targetAt? Build.hardware 0x1A2000 = some (.elm 0x144 0)) ∧
      (targetAt? Build.hardware 0x100000 = some (.elm 0 0) ∧ bankRefused .hardware false true (.elm 0 0) = true) := by
  decide +kernel

/-- The last sample and the last word of the map, and the ends of each unmapped range. -/
theorem test_witness_WindowMapIsTheSpecs :
    127 < Build.hardware.B ∧ targetAt? Build.hardware 0x17FC = some (.audio .outR 127) ∧
      327 < Build.hardware.numBlocks ∧ 511 < Build.hardware.L ∧
      targetAt? Build.hardware 0x1A3FFC = some (.elm 327 511) ∧
      targetAt? Build.hardware 0x038 = none ∧ targetAt? Build.hardware 0xFFC = none ∧
      targetAt? Build.hardware 0x1800 = none ∧ targetAt? Build.hardware 0xFFFFC = none ∧
      targetAt? Build.hardware 0x1A4000 = none := by decide +kernel

/-- Every clause's access: the least offset 0x1000, the three protected registers, any register, INT_ENABLE. -/
theorem test_witness_BusyRefusesDataAndConfiguration :
    waiting.busy = true ∧ 0x1000 ≤ 0x1000 ∧ accessTarget waiting false 4 0x1000 = none ∧
      accessTarget waiting true 4 0x008 = none ∧
      accessTarget waiting true 4 0x030 = some (.reg .skipCount) ∧
      accessTarget waiting true 4 0x018 = none ∧ accessTarget waiting true 4 0x034 = none ∧
      accessTarget waiting false 4 0x034 = some (.reg .audioAvail) ∧
      accessTarget waiting true 4 0x020 = some (.reg .intEnable) := by decide +kernel

theorem test_witness_ActiveBankIsWriteProtectedOnTheBus :
    (1 < 2 ∧ 63 < quiet.build.P ∧ 511 < quiet.build.L ∧ quiet.busy = false) ∧
      inBank .hardware false (tfBlock .hardware 0 1 63) = true := by decide

theorem test_witness_HostMovesElmWordsUnchanged :
    quiet.busy = false ∧ 327 < quiet.build.numBlocks ∧ 128 < quiet.build.numBlocks ∧ 511 < quiet.build.L ∧
      inBank quiet.build quiet.activeBank 327 = false ∧ inBank quiet.build quiet.activeBank 128 = false := by decide

theorem test_witness_HostMovesSamplesSignExtended : quiet.busy = false ∧ 127 < quiet.build.B := by decide

theorem test_witness_RegisterReadsReturnTheirFields :
    (0x034, quiet.audioAvail.setWidth 32) ∈ [(0x000, (0x41555231 : Word)), (0x034, quiet.audioAvail.setWidth 32)] := by
  decide

theorem test_witness_RegisterWritesStoreImplementedBits :
    quiet.busy = false ∧ 0x030 ∈ [0x000, 0x004, 0x00C, 0x014, 0x024, 0x028, 0x02C, 0x030] := by decide

theorem test_witness_HostSeesNoPartialCommand :
    waiting.busy = true ∧ waiting.host = .read 4 0x00C :: [] ∧ HostOp.read 4 0x00C ≠ .reset := by decide

theorem test_witness_InitEndsWithZeroMemoriesAndStatus :
    State.reset.init = true ∧ engineTurn State.reset = true ∧ 327 < State.reset.build.numBlocks ∧
      511 < State.reset.build.L ∧ 127 < State.reset.build.B := by decide

theorem test_witness_PlatformResetAbandonsThePendingCommand :
    ({ waiting with host := [.reset] } : State).host = .reset :: [] := by decide

theorem test_witness_EveryStepKeepsSoundness :
    waiting.sound = true ∧ step (due 0 quiet) = .next (after (step (due 0 quiet))) ∧ (due 0 quiet).sound = true :=
  ⟨by decide +kernel, next_after _ (by decide +kernel), by decide +kernel⟩

theorem test_witness_SoundStateAlwaysSteps : State.reset.sound = true ∧ waiting.sound = true := by decide +kernel

theorem test_witness_EveryStepStoresOnlyInMappedStorage :
    let s := put 327 511 0xFFFFFFFF (putSample .outR 127 0xFFFF { quiet with host := [.write 4 0x1A3FFC 1] })
    s.storageOnly = true ∧ step s = .next (after (step s)) :=
  ⟨by decide +kernel, next_after _ (by decide +kernel)⟩

/-- The last byte of the last block of the active bank, over a COMMIT and over a host write to the other bank. -/
theorem test_witness_NoStepChangesTheActiveBank :
    let s := { quiet with host := [.write 4 0x140000 1] }
    s.init = false ∧ step s = .next (after (step s)) ∧ 1 < 2 ∧ 63 < s.build.P ∧
      inBlockWords (tfBlock s.build (bankNumber s.activeBank) 1 63) 512 0x13FFFF = true :=
  ⟨by decide, next_after _ (by decide +kernel), by decide, by decide, by decide⟩

theorem test_witness_OnlyCommitSwapsTheBanks :
    let s := due 0x40000000 (idle tiny)
    s.init = false ∧ s.host.head? ≠ some .reset ∧ step s = .next (after (step s)) ∧
      (after (step s)).activeBank ≠ s.activeBank :=
  ⟨by decide, by decide, next_after _ (by decide +kernel), by decide +kernel⟩

theorem test_witness_PendingCommandIsPerformedWithinItsLatency :
    waiting.sound = true ∧ waiting.pending = some 0 ∧ HostOp.reset ∉ waiting.host := by decide +kernel

theorem test_witness_EachTickCountsOnce :
    let s := { idle tiny with audioAvail := 0x7 }
    exec .tick s = .next (after (exec .tick s)) ∧ exec .nop s = .next (after (exec .nop s)) :=
  ⟨next_after _ (by decide +kernel), next_after _ (by decide +kernel)⟩

/-- The operands of CLEAR, COPY, CMAC, FFT, IFFT and PART: the first block after the active bank and the last block;
a source may lie in the active bank. -/
theorem test_witness_BlockCommands :
    (128#9).toNat < quiet.build.numBlocks ∧ (327#9).toNat < quiet.build.numBlocks ∧
      (0#9).toNat < quiet.build.numBlocks ∧ inBank quiet.build quiet.activeBank (128#9).toNat = false ∧
      inBank quiet.build quiet.activeBank (327#9).toNat = false ∧ 511 < quiet.build.L ∧ 255 < quiet.build.N := by
  decide

theorem test_witness_CommitSwapsBanksAndClearsHistory :
    63 < quiet.build.P ∧ 511 < quiet.build.L ∧ (∀ i, i < quiet.build.P →
      inBlockWords (fdlBlock quiet.build i) quiet.build.L 0x1A0000 = false) ∧
      inBlockWords (ovlBlock quiet.build) quiet.build.L 0x1A0000 = false := by decide +kernel

theorem test_witness_TickSkipsWithoutAllBuffers : ({ quiet with audioAvail := 0x7 } : State).audioAvail ≠ 0xF := by
  decide

theorem test_witness_PassthroughTickCopiesSamples :
    let s := { putSample .inL 1 0x8000 (idle tiny) with audioAvail := 0xF, passthru := true }
    s.audioAvail = 0xF ∧ s.passthru = true ∧ firstSamples (after (exec .tick s)) .outL 2 = [0, -32768] := by
  decide +kernel

/-- The hypotheses of the three convolution statements, at the last cursor and both ends of `j`. -/
theorem test_witness_ConvolutionTick :
    let s := { quiet with audioAvail := 0xF, cursor := 63 }
    s.audioAvail = 0xF ∧ s.passthru = false ∧ s.cursor.toNat < s.build.P ∧ 1 ≤ 63 ∧ 63 < s.build.P ∧
      511 < s.build.L ∧ inBlockWords (winBlock s.build) s.build.L 0 = false ∧
      inBlockWords (ovlBlock s.build) (2 * s.build.B) 0 = false ∧
      inBlockWords (fdlBlock s.build s.cursor.toNat) s.build.L 0 = false ∧
      inBlockWords (acclBlock s.build) s.build.L 0 = false ∧ inBlockWords (accrBlock s.build) s.build.L 0 = false ∧
      inBuffer s.build .outL 0 = false ∧ inBuffer s.build .outR 0 = false := by decide +kernel

theorem test_witness_CursorWrapsAfterAllPartitions : (63#8).toNat < Build.hardware.P := by decide

theorem test_witness_CommandWithBadOperandsIsRejected :
    (∃ b ∈ (Instr.clear 328).blocks, quiet.build.numBlocks ≤ b.toNat) ∧
      (∀ b ∈ (Instr.clear 127).blocks, b.toNat < quiet.build.numBlocks) ∧
      ∃ d, (Instr.clear 127).dest? = some d ∧ inBank quiet.build quiet.activeBank d.toNat = true :=
  ⟨by decide, by decide, 127, by decide, by decide⟩

/-- A subnormal, and a value that rounds to infinity. -/
theorem test_witness_Rn32RoundsToNearestEven :
    0 < 1 ∧ rn32 false 1 149 = 0x00000001 ∧ rn32 true (2 ^ 128) 0 = 0xFF800000 := by decide +kernel

/-- Patterns for every clause: a NaN, infinities that cancel and that do not, and finite values whose sum or product is
zero or not. -/
theorem test_witness_AddAndMultiplyRoundTheExactResult :
    classify 0x7FA00001 = .nan ∧ classify 0x7F800000 = .inf false ∧ classify 0xFF800000 = .inf (!false) ∧
      classify 0x80000000 = .finite true 0 0 ∧ classify 0x00000001 = .finite false 1 0 ∧
      classify 0x80000001 = .finite true 1 0 ∧ classify 0x7F7FFFFF = .finite false (2 ^ 24 - 1) 253 := by
  decide +kernel

theorem test_witness_EveryNanResultIsCanonical :
    classify (fadd 0x7F800000 0xFF800000) = .nan ∧ classify (fsub 0x7F800000 0x7F800000) = .nan ∧
      classify (fmul 0x7F800000 0) = .nan ∧ classify (fneg 0x7FA00001) = .nan := by decide +kernel

/-- Also of `LoadIsBitReversed`. -/
theorem test_witness_BitReversalReadsBackwards : 255 < 2 ^ 8 ∧ 7 < 8 ∧ (0 : Nat) < 2 ^ 0 := by decide

/-- The first and the last stage of a 256-point transform, at their last butterflies. -/
theorem test_witness_StageAppliesEachButterflyToThePreviousStage :
    (1 ≤ 1 ∧ 1 ≤ 8 ∧ (List.replicate (2 ^ 8) (⟨0, 0⟩ : Cplx)).length = 2 ^ 8 ∧ 127 < 2 ^ (8 - 1) ∧ 0 < 2 ^ (1 - 1)) ∧
      (1 ≤ 8 ∧ 8 ≤ 8 ∧ 0 < 2 ^ (8 - 8) ∧ 127 < 2 ^ (8 - 1)) :=
  ⟨⟨by decide, by decide, List.length_replicate, by decide, by decide⟩, by decide⟩

/-- The sizes and twiddle indices of `TransformCommandsReplaceTheirBlock`, `TransformOfZerosIsZeros` and
`TwiddleRomAndImpulseTransforms`, at their ends. -/
theorem test_witness_TransformSizes :
    (1 ≤ 1 ∧ 1 ≤ 8 ∧ 0 < 2 ^ (1 - 1)) ∧ (1 ≤ 8 ∧ 8 ≤ 8 ∧ 1 ≤ 127 ∧ 127 < 2 ^ (8 - 1)) ∧ 1 ≤ 1 ∧ 1 ≤ 63 ∧ 63 ≤ 63 := by
  decide

theorem test_witness_CommandLineAssemblesToItsWord : Instr.tick.blocks = [] ∧ Instr.nop.blocks = [] := by decide

/-- Two instances, next to each other: a step of the first, and addresses on both sides of the second. -/
theorem test_witness_InstancesAreIndependent :
    let ps : List Placed := [⟨0x40000000, quiet⟩, ⟨0x40200000, quiet⟩]
    (platformStep 0 ps).isSome = true ∧ 1 ≠ 0 ∧ ps[1]? = some ⟨0x40200000, quiet⟩ ∧
      0x401FFFFC < 0x40200000 ∧ 0x40200000 + 0x200000 ≤ 0x40400000 := by decide +kernel

end Sys2Proof.Tests
end

section
/-! PROOFS. Binary32 patterns: a pattern is its three parts (R14), what `classify` makes of each of them, and the
patterns that the primitives build. -/

namespace Sys2Proof.Machine

theorem signBit_eq (w : Word) : signBit w = decide (2 ^ 31 ≤ w.toNat) := by
  rw [signBit, ← BitVec.msb_eq_getLsbD_last w, BitVec.msb_eq_decide]

theorem biasedExp_eq (w : Word) : biasedExp w = w.toNat / 2 ^ 23 % 2 ^ 8 := by
  rw [biasedExp, BitVec.extractLsb'_toNat, Nat.shiftRight_eq_div_pow]

theorem fraction_eq (w : Word) : fraction w = w.toNat % 2 ^ 23 := by
  rw [fraction, BitVec.extractLsb'_toNat, Nat.shiftRight_zero]

/-- R14: a word is its sign bit, its biased exponent and its fraction. -/
theorem word_toNat_parts (w : Word) :
    w.toNat = (if signBit w then 2 ^ 31 else 0) + biasedExp w * 2 ^ 23 + fraction w := by
  have hlt := w.isLt
  simp only [signBit_eq, biasedExp_eq, fraction_eq, decide_eq_true_eq]
  split <;> omega

/-- R14: the three parts determine the pattern. -/
theorem word_eq_of_parts_eq {v w : Word} (hs : signBit v = signBit w) (he : biasedExp v = biasedExp w)
    (hf : fraction v = fraction w) : v = w := by
  apply BitVec.eq_of_toNat_eq
  rw [word_toNat_parts v, word_toNat_parts w, hs, he, hf]

/-! ### What the parts make a pattern -/

theorem classify_eq_nan {w : Word} (he : biasedExp w = 255) (hf : fraction w ≠ 0) : classify w = .nan := by
  rw [classify, if_pos he, if_neg hf]

theorem classify_eq_inf {w : Word} (he : biasedExp w = 255) (hf : fraction w = 0) :
    classify w = .inf (signBit w) := by
  rw [classify, if_pos he, if_pos hf]

theorem classify_eq_subnormal {w : Word} (he : biasedExp w = 0) :
    classify w = .finite (signBit w) (fraction w) 0 := by
  rw [classify, if_neg (by omega), if_pos he]

theorem classify_eq_normal {w : Word} (h0 : biasedExp w ≠ 0) (h255 : biasedExp w ≠ 255) :
    classify w = .finite (signBit w) (2 ^ 23 + fraction w) (biasedExp w - 1) := by
  rw [classify, if_neg h255, if_neg h0]

/-- Every pattern is of one of four kinds, by its parts. -/
theorem classify_cases (w : Word) :
    (biasedExp w = 255 ∧ fraction w ≠ 0 ∧ classify w = .nan) ∨
      (biasedExp w = 255 ∧ fraction w = 0 ∧ classify w = .inf (signBit w)) ∨
      (biasedExp w = 0 ∧ classify w = .finite (signBit w) (fraction w) 0) ∨
      (biasedExp w ≠ 0 ∧ biasedExp w ≠ 255 ∧
        classify w = .finite (signBit w) (2 ^ 23 + fraction w) (biasedExp w - 1)) := by
  by_cases h255 : biasedExp w = 255
  · by_cases hf : fraction w = 0
    · exact .inr (.inl ⟨h255, hf, classify_eq_inf h255 hf⟩)
    · exact .inl ⟨h255, hf, classify_eq_nan h255 hf⟩
  · by_cases h0 : biasedExp w = 0
    · exact .inr (.inr (.inl ⟨h0, classify_eq_subnormal h0⟩))
    · exact .inr (.inr (.inr ⟨h0, h255, classify_eq_normal h0 h255⟩))

@[simp] theorem classify_infinity (neg : Bool) : classify (infinity neg) = .inf neg := by
  cases neg <;> decide

@[simp] theorem classify_zero (neg : Bool) : classify (zero neg) = .finite neg 0 0 := by
  cases neg <;> decide

theorem classify_eq_nan_iff (w : Word) : classify w = .nan ↔ biasedExp w = 255 ∧ fraction w ≠ 0 := by
  refine ⟨fun h => ?_, fun ⟨he, hf⟩ => classify_eq_nan he hf⟩
  rcases classify_cases w with ⟨he, hf, _⟩ | ⟨_, _, hc⟩ | ⟨_, hc⟩ | ⟨_, _, hc⟩
  · exact ⟨he, hf⟩
  all_goals rw [h] at hc; cases hc

/-- The only patterns of an infinity are the two of `infinity`. -/
theorem eq_infinity_of_classify {w : Word} {neg : Bool} (h : classify w = .inf neg) : w = infinity neg := by
  rcases classify_cases w with ⟨_, _, hc⟩ | ⟨he, hf, hc⟩ | ⟨_, hc⟩ | ⟨_, _, hc⟩ <;> rw [h] at hc <;> cases hc
  apply word_eq_of_parts_eq
  · cases signBit w <;> rfl
  · rw [he]; cases signBit w <;> rfl
  · rw [hf]; cases signBit w <;> rfl

/-- The only patterns of the value 0 are the two of `zero`. -/
theorem eq_zero_of_classify {w : Word} {neg : Bool} {exp : Nat} (h : classify w = .finite neg 0 exp) :
    w = zero neg := by
  rcases classify_cases w with ⟨_, _, hc⟩ | ⟨_, _, hc⟩ | ⟨he, hc⟩ | ⟨_, _, hc⟩ <;> rw [h] at hc
  case inr.inr.inl =>
    obtain ⟨hs, hf, -⟩ := FloatClass.finite.inj hc
    apply word_eq_of_parts_eq
    · rw [← hs]; cases neg <;> rfl
    · rw [he]; cases neg <;> rfl
    · rw [← hf]; cases neg <;> rfl
  case inr.inr.inr => have := (FloatClass.finite.inj hc).2.1; omega
  all_goals cases hc

/-- The sign of a finite value is the sign bit of its pattern. -/
theorem signBit_of_classify_finite {w : Word} {neg : Bool} {sig exp : Nat}
    (h : classify w = .finite neg sig exp) : signBit w = neg := by
  rcases classify_cases w with ⟨_, _, hc⟩ | ⟨_, _, hc⟩ | ⟨_, hc⟩ | ⟨_, _, hc⟩ <;> rw [h] at hc <;> cases hc <;> rfl

/-! ### Flipping the sign -/

theorem biasedExp_flip (w : Word) : biasedExp (w ^^^ 0x80000000) = biasedExp w := by
  rw [biasedExp, BitVec.extractLsb'_xor]
  exact congrArg BitVec.toNat (BitVec.xor_zero)

theorem fraction_flip (w : Word) : fraction (w ^^^ 0x80000000) = fraction w := by
  rw [fraction, BitVec.extractLsb'_xor]
  exact congrArg BitVec.toNat (BitVec.xor_zero)

/-- Inverting bit 31 neither makes nor unmakes a NaN. -/
theorem classify_flip_eq_nan_iff (w : Word) : classify (w ^^^ 0x80000000) = .nan ↔ classify w = .nan := by
  rw [classify_eq_nan_iff, classify_eq_nan_iff, biasedExp_flip, fraction_flip]

/-! ### The patterns that a rounding builds -/

theorem packFinite_toNat (neg : Bool) {m u : Nat} (h : u * 2 ^ 23 + m < 2 ^ 31) :
    (packFinite neg m u).toNat = (if neg then 2 ^ 31 else 0) + (u * 2 ^ 23 + m) := by
  have hm : (BitVec.ofNat 32 (u * 2 ^ 23 + m)).toNat = u * 2 ^ 23 + m := by
    rw [BitVec.toNat_ofNat, Nat.mod_eq_of_lt (by omega)]
  rw [packFinite, BitVec.toNat_or, hm]
  cases neg
  · simp [zero]
  · simpa [zero] using (Nat.two_pow_add_eq_or_of_lt h 1).symm

/-- The parts of a packed pattern, where the exponent field is `e` and the fraction is `f`. -/
theorem packFinite_parts (neg : Bool) {m u e f : Nat} (hv : u * 2 ^ 23 + m = e * 2 ^ 23 + f) (he : e < 255)
    (hf : f < 2 ^ 23) :
    signBit (packFinite neg m u) = neg ∧ biasedExp (packFinite neg m u) = e ∧
      fraction (packFinite neg m u) = f := by
  have hn := packFinite_toNat neg (m := m) (u := u) (by omega)
  rw [hv] at hn
  rw [signBit_eq, biasedExp_eq, fraction_eq, hn]
  cases neg
  · exact ⟨decide_eq_false (by simp; omega), by simp; omega, by simp; omega⟩
  · exact ⟨decide_eq_true (by simp), by simp; omega, by simp; omega⟩

/-- A packed pattern is the finite value `± m · 2 ^ u` units: as a subnormal, as a normal value, or as the next power
of two where the rounding carried. -/
theorem classify_packFinite (neg : Bool) {m u : Nat} (hle : m ≤ 2 ^ 24) (hlow : u ≠ 0 → 2 ^ 23 ≤ m)
    (hlt : m * 2 ^ u < 2 ^ 277) :
    ∃ sig exp, classify (packFinite neg m u) = .finite neg sig exp ∧ sig * 2 ^ exp = m * 2 ^ u := by
  have hexp : ∀ j, 2 ^ j ≤ m → j + u < 277 := fun j hj => by
    have hpow : 2 ^ (j + u) ≤ m * 2 ^ u := by rw [pow_add]; exact Nat.mul_le_mul_right _ hj
    exact (pow_lt_pow_iff_right₀ Nat.one_lt_two).1 (hpow.trans_lt hlt)
  by_cases hsub : m < 2 ^ 23
  · have hu : u = 0 := by by_contra hu; have := hlow hu; omega
    subst hu
    obtain ⟨hs, he, hf⟩ := packFinite_parts neg (m := m) (u := 0) (e := 0) (f := m) rfl (by omega) hsub
    exact ⟨m, 0, by rw [classify_eq_subnormal he, hs, hf], rfl⟩
  · have hu := hexp 23 (by omega)
    by_cases hcarry : m = 2 ^ 24
    · subst hcarry
      have hu := hexp 24 (by omega)
      obtain ⟨hs, he, hf⟩ := packFinite_parts neg (m := 2 ^ 24) (u := u) (e := u + 2) (f := 0) (by omega)
        (by omega) (by omega)
      refine ⟨2 ^ 23, u + 1, ?_, by rw [Nat.pow_succ 2 u]; omega⟩
      rw [classify_eq_normal (by omega) (by omega), hs, he, hf]; rfl
    · obtain ⟨hs, he, hf⟩ := packFinite_parts neg (m := m) (u := u) (e := u + 1) (f := m - 2 ^ 23) (by omega)
        (by omega) (by omega)
      refine ⟨m, u, ?_, rfl⟩
      rw [classify_eq_normal (by omega) (by omega), hs, he, hf, Nat.add_sub_of_le (by omega),
        Nat.add_sub_cancel]

end Sys2Proof.Machine
end

section
/-! PROOFS. Rounding: `roundEven` is within half a unit and even at a tie (R15, R21), and what `rn32` makes of an exact
value (R15). -/

namespace Sys2Proof.Machine

theorem div_le_roundEven (num den : Nat) : num / den ≤ roundEven num den := by
  simp only [roundEven]; split_ifs <;> omega

theorem roundEven_le_div_succ (num den : Nat) : roundEven num den ≤ num / den + 1 := by
  simp only [roundEven]; split_ifs <;> omega

/-- A whole quotient is not rounded. -/
@[simp] theorem roundEven_mul_self (c : Nat) {den : Nat} (h : 0 < den) : roundEven (c * den) den = c := by
  simp [roundEven, h]

/-- The result of `roundEven` is nearest to the quotient, and even where the quotient is halfway. -/
theorem roundEven_nearest (num : Nat) {den : Nat} (h : 0 < den) :
    |(num : ℚ) / den - roundEven num den| ≤ 1 / 2 ∧
      (|(num : ℚ) / den - roundEven num den| = 1 / 2 → roundEven num den % 2 = 0) := by
  have hd : (0 : ℚ) < den := by exact_mod_cast h
  have hx : (num : ℚ) / den = (num / den : Nat) + (num % den : Nat) / den := by
    rw [div_eq_iff hd.ne', add_mul, div_mul_cancel₀ _ hd.ne']
    exact_mod_cast (Nat.div_add_mod' num den).symm
  have ht0 : (0 : ℚ) ≤ (num % den : Nat) / den := by positivity
  have ht1 : ((num % den : Nat) : ℚ) / den < 1 := by
    rw [div_lt_one hd]; exact_mod_cast Nat.mod_lt num h
  rw [hx, roundEven]
  generalize num / den = q at *
  generalize num % den = r at *
  split_ifs with hlow hhigh
  · have : (r : ℚ) / den < 1 / 2 := by
      rw [div_lt_iff₀ hd]; have : (2 * r : ℚ) < den := by exact_mod_cast hlow
      linarith
    rw [add_sub_cancel_left, abs_of_nonneg ht0]
    exact ⟨this.le, fun heq => absurd heq this.ne⟩
  · have : 1 / 2 < (r : ℚ) / den := by
      rw [lt_div_iff₀ hd]; have : (den : ℚ) < 2 * r := by exact_mod_cast hhigh
      linarith
    rw [Nat.cast_succ, add_sub_add_left_eq_sub, abs_sub_comm, abs_of_pos (by linarith)]
    exact ⟨by linarith, fun heq => by linarith⟩
  · have : (r : ℚ) / den = 1 / 2 := by
      rw [div_eq_iff hd.ne']; have : (den : ℚ) = 2 * r := by exact_mod_cast (by omega : den = 2 * r)
      linarith
    rw [this]
    rcases Nat.mod_two_eq_zero_or_one q with hq | hq
    · rw [hq, Nat.add_zero, add_sub_cancel_left]
      exact ⟨by norm_num, fun _ => hq⟩
    · rw [hq, Nat.cast_succ, add_sub_add_left_eq_sub]
      exact ⟨by norm_num, fun _ => by omega⟩

/-! ### The unit and the significand of `RN32` -/

/-- The exponent of the unit of `rn32 _ n k`, biased by 149 (R15). -/
def rnUnit (n k : Nat) : Nat := n.log2 + 126 - k

/-- The number of units that `rn32 _ n k` rounds to (R15). -/
def rnSig (n k : Nat) : Nat := roundEven (n * 2 ^ 149) (2 ^ (k + rnUnit n k))

theorem rn32_eq (neg : Bool) (n k : Nat) :
    rn32 neg n k = if 2 ^ 277 ≤ rnSig n k * 2 ^ rnUnit n k then infinity neg
      else packFinite neg (rnSig n k) (rnUnit n k) := rfl

theorem rn32_of_overflow (neg : Bool) {n k : Nat} (h : 2 ^ 277 ≤ rnSig n k * 2 ^ rnUnit n k) :
    rn32 neg n k = infinity neg := by
  rw [rn32_eq, if_pos h]

theorem rn32_of_lt (neg : Bool) {n k : Nat} (h : rnSig n k * 2 ^ rnUnit n k < 2 ^ 277) :
    rn32 neg n k = packFinite neg (rnSig n k) (rnUnit n k) := by
  rw [rn32_eq, if_neg (Nat.not_le.2 h)]

theorem rnSig_le (n k : Nat) : rnSig n k ≤ 2 ^ 24 := by
  have hpow : 2 ^ (n.log2 + 1) * 2 ^ 149 ≤ 2 ^ 24 * 2 ^ (k + rnUnit n k) := by
    rw [← pow_add, ← pow_add]
    exact Nat.pow_le_pow_right (by omega) (by simp only [rnUnit]; omega)
  have hlt : n * 2 ^ 149 / 2 ^ (k + rnUnit n k) < 2 ^ 24 :=
    Nat.div_lt_of_lt_mul <| by
      rw [mul_comm (2 ^ (k + rnUnit n k))]
      exact (Nat.mul_lt_mul_of_pos_right Nat.lt_log2_self (by positivity)).trans_le hpow
  exact (roundEven_le_div_succ _ _).trans hlt

/-- Above the least unit the significand is a normal one. -/
theorem le_rnSig {n k : Nat} (hn : 0 < n) (hu : rnUnit n k ≠ 0) : 2 ^ 23 ≤ rnSig n k := by
  have hpow : 2 ^ 23 * 2 ^ (k + rnUnit n k) = 2 ^ n.log2 * 2 ^ 149 := by
    rw [← pow_add, ← pow_add]
    congr 1
    simp only [rnUnit] at hu ⊢; omega
  have hle : 2 ^ 23 * 2 ^ (k + rnUnit n k) ≤ n * 2 ^ 149 := by
    rw [hpow]; exact Nat.mul_le_mul_right _ (Nat.log2_self_le hn.ne')
  exact ((Nat.le_div_iff_mul_le (by positivity)).2 hle).trans (div_le_roundEven _ _)

/-- R15: below `2 ^ 128` the result is the finite value of the rounded significand. -/
theorem classify_rn32_of_lt (neg : Bool) {n k : Nat} (hn : 0 < n) (h : rnSig n k * 2 ^ rnUnit n k < 2 ^ 277) :
    ∃ sig exp, classify (rn32 neg n k) = .finite neg sig exp ∧ sig * 2 ^ exp = rnSig n k * 2 ^ rnUnit n k := by
  rw [rn32_of_lt neg h]
  exact classify_packFinite neg (rnSig_le n k) (le_rnSig hn) h

/-- R16: rounding an exact value gives no NaN. -/
theorem classify_rn32_ne_nan (neg : Bool) {n : Nat} (k : Nat) (hn : 0 < n) : classify (rn32 neg n k) ≠ .nan := by
  rcases Nat.lt_or_ge (rnSig n k * 2 ^ rnUnit n k) (2 ^ 277) with h | h
  · obtain ⟨sig, exp, hc, -⟩ := classify_rn32_of_lt neg hn h
    rw [hc]; exact FloatClass.noConfusion
  · rw [rn32_of_overflow neg h, classify_infinity]; exact FloatClass.noConfusion

/-- The binary exponent of an exact value, `floor (log2 (n / 2 ^ k))` (R15). -/
theorem log_div_two_pow {n : Nat} (k : Nat) (hn : 0 < n) : Int.log 2 ((n : ℚ) / 2 ^ k) = n.log2 - k := by
  have hk : (0 : ℚ) < 2 ^ k := by positivity
  have hq : (0 : ℚ) < (n : ℚ) / 2 ^ k := by positivity
  have hlow : (2 : ℚ) ^ n.log2 ≤ n := by exact_mod_cast Nat.log2_self_le hn.ne'
  have hhigh : (n : ℚ) < 2 ^ (n.log2 + 1) := by exact_mod_cast Nat.lt_log2_self
  apply le_antisymm
  · rw [← Int.lt_add_one_iff, ← Int.lt_zpow_iff_log_lt (by omega) hq, Nat.cast_ofNat,
      show (n.log2 : Int) - k + 1 = ((n.log2 + 1 : Nat) : Int) - (k : Nat) by push_cast; ring,
      zpow_sub₀ two_ne_zero, zpow_natCast, zpow_natCast]
    exact div_lt_div_of_pos_right hhigh hk
  · rw [← Int.zpow_le_iff_le_log (by omega) hq, Nat.cast_ofNat, zpow_sub₀ two_ne_zero, zpow_natCast, zpow_natCast]
    exact div_le_div_of_nonneg_right hlow hk.le

/-- The unit of R15, `2 ^ (E - 23)` with `E = max e (-126)`, is `2 ^ rnUnit` of the units of `2 ^ (-149)`. -/
theorem unit_eq_rnUnit {n : Nat} (k : Nat) (hn : 0 < n) :
    (2 : ℚ) ^ (max (Int.log 2 ((n : ℚ) / 2 ^ k)) (-126) - 23) = 2 ^ rnUnit n k / 2 ^ 149 := by
  rw [log_div_two_pow k hn,
    show max ((n.log2 : Int) - k) (-126) - 23 = (rnUnit n k : Nat) - (149 : Nat) by simp only [rnUnit]; omega,
    zpow_sub₀ two_ne_zero, zpow_natCast, zpow_natCast]

/-- The distance from `n / 2 ^ k` to `m` units of `2 ^ u / 2 ^ c`, counted in those units. -/
theorem sub_mul_unit (n k m u c : Nat) :
    (n : ℚ) / 2 ^ k - m * (2 ^ u / 2 ^ c)
      = (((n * 2 ^ c : Nat) : ℚ) / (2 ^ (k + u) : Nat) - m) * (2 ^ u / 2 ^ c) := by
  push_cast
  rw [pow_add]
  field_simp

/-- A bound on a value, counted in units of `1 / 2 ^ c`. -/
theorem two_pow_le_units_iff {a b c : Nat} (m u : Nat) (h : a = b + c) :
    (2 : ℚ) ^ b ≤ m * (2 ^ u / 2 ^ c) ↔ 2 ^ a ≤ m * 2 ^ u := by
  rw [h, ← mul_div_assoc, le_div_iff₀ (by positivity), ← pow_add]
  exact_mod_cast Iff.rfl

/-- Settles O48: the significand is `rnSig`, in the unit `2 ^ (rnUnit - 149)`. -/
theorem rn32RoundsToNearestEven : Obligations.Rn32RoundsToNearestEven := by
  intro neg n k hn
  have hnear := roundEven_nearest (n * 2 ^ 149) (den := 2 ^ (k + rnUnit n k)) (by positivity)
  rw [← rnSig] at hnear
  obtain ⟨hle, heven⟩ := hnear
  have hu : (0 : ℚ) < 2 ^ rnUnit n k / 2 ^ 149 := by positivity
  simp only [unit_eq_rnUnit k hn]
  refine ⟨rnSig n k, ?_, fun htie => heven ?_, ?_⟩
  · rw [sub_mul_unit, abs_mul, abs_of_pos hu]
    linarith [mul_le_mul_of_nonneg_right hle hu.le]
  · rw [sub_mul_unit, abs_mul, abs_of_pos hu] at htie
    exact mul_right_cancel₀ hu.ne' (by linarith)
  · have hoverflow := two_pow_le_units_iff (a := 277) (b := 128) (c := 149) (rnSig n k) (rnUnit n k)
      rfl
    split_ifs with h
    · exact rn32_of_overflow neg (hoverflow.1 h)
    · obtain ⟨sig, exp, hc, hval⟩ := classify_rn32_of_lt neg hn (Nat.not_le.1 (mt hoverflow.2 h))
      have hval' : (sig : ℚ) * 2 ^ exp = rnSig n k * 2 ^ rnUnit n k := by exact_mod_cast hval
      exact ⟨sig, exp, hc, by rw [hval', mul_div_assoc]⟩

end Sys2Proof.Machine
end

section
/-! PROOFS. Addition, multiplication and negation (R16 to R18): their value in each case of their operands. -/

namespace Sys2Proof.Machine

/-! ### Exact values -/

/-- A sign times a magnitude, as the statements write a finite value, is the model's signed count of units. -/
theorem sign_mul_eq_signedUnits (neg : Bool) (sig exp : Nat) :
    (if neg then -1 else 1 : ℚ) * sig * 2 ^ exp = signedUnits neg sig exp := by
  cases neg <;> simp [signedUnits]

theorem signedUnits_eq_zero_iff (neg : Bool) (sig exp : Nat) : signedUnits neg sig exp = 0 ↔ sig = 0 := by
  cases neg <;> simp [signedUnits]

/-- The product of two signed counts has the product of their magnitudes, and its sign is minus where the signs
differ. -/
theorem signedUnits_mul (na nb : Bool) (sa ea sb eb : Nat) :
    signedUnits na sa ea * signedUnits nb sb eb = signedUnits (na != nb) (sa * sb) (ea + eb) := by
  cases na <;> cases nb <;> simp [signedUnits] <;> ring

theorem natAbs_signedUnits (neg : Bool) (sig exp : Nat) : (signedUnits neg sig exp).natAbs = sig * 2 ^ exp := by
  cases neg <;> simp [signedUnits, Int.natAbs_mul, Int.natAbs_pow]

theorem decide_signedUnits_neg (neg : Bool) {sig : Nat} (exp : Nat) (h : sig ≠ 0) :
    decide (signedUnits neg sig exp < 0) = neg := by
  have hpos : (0 : Int) < (sig * 2 ^ exp : Nat) := by exact_mod_cast (by positivity : 0 < sig * 2 ^ exp)
  cases neg
  · exact decide_eq_false (Int.lt_asymm hpos)
  · exact decide_eq_true (Int.neg_neg_of_pos hpos)

/-! ### The cases of addition -/

theorem fadd_nan_left {a : Word} (b : Word) (h : classify a = .nan) : fadd a b = cnan := by
  rw [fadd, h]

theorem fadd_inf_inf {a b : Word} {na nb : Bool} (ha : classify a = .inf na) (hb : classify b = .inf nb) :
    fadd a b = if na = nb then infinity na else cnan := by
  rw [fadd, ha, hb]

theorem fadd_inf_finite {a b : Word} {na nb : Bool} {sb eb : Nat} (ha : classify a = .inf na)
    (hb : classify b = .finite nb sb eb) : fadd a b = infinity na := by
  rw [fadd, ha, hb]

theorem fadd_finite {a b : Word} {na nb : Bool} {sa ea sb eb : Nat} (ha : classify a = .finite na sa ea)
    (hb : classify b = .finite nb sb eb) : fadd a b = addFinite na sa ea nb sb eb := by
  rw [fadd, ha, hb]

theorem addFinite_comm (na : Bool) (sa ea : Nat) (nb : Bool) (sb eb : Nat) :
    addFinite na sa ea nb sb eb = addFinite nb sb eb na sa ea := by
  have hz : (na && nb && sa == 0 && sb == 0) = (nb && na && sb == 0 && sa == 0) := by
    cases na <;> cases nb <;> simp [Bool.and_comm]
  simp only [addFinite, add_comm (signedUnits na sa ea), hz]

/-- R17: addition commutes, bit for bit. -/
theorem fadd_comm (a b : Word) : fadd a b = fadd b a := by
  unfold fadd
  cases classify a <;> cases classify b
  case inf.inf na nb => cases na <;> cases nb <;> rfl
  case finite.finite => exact addFinite_comm ..
  all_goals rfl

/-! ### The cases of multiplication -/

theorem fmul_nan_left {a : Word} (b : Word) (h : classify a = .nan) : fmul a b = cnan := by
  rw [fmul, h]

theorem fmul_inf_inf {a b : Word} {na nb : Bool} (ha : classify a = .inf na) (hb : classify b = .inf nb) :
    fmul a b = infinity (na != nb) := by
  rw [fmul, ha, hb]

theorem fmul_inf_finite {a b : Word} {na nb : Bool} {sb eb : Nat} (ha : classify a = .inf na)
    (hb : classify b = .finite nb sb eb) : fmul a b = if sb = 0 then cnan else infinity (na != nb) := by
  rw [fmul, ha, hb]

theorem fmul_finite {a b : Word} {na nb : Bool} {sa ea sb eb : Nat} (ha : classify a = .finite na sa ea)
    (hb : classify b = .finite nb sb eb) :
    fmul a b = if sa * sb = 0 then zero (na != nb) else rn32 (na != nb) (sa * sb * 2 ^ (ea + eb)) 298 := by
  rw [fmul, ha, hb]

/-- R18: multiplication commutes, bit for bit. -/
theorem fmul_comm (a b : Word) : fmul a b = fmul b a := by
  unfold fmul
  cases classify a <;> cases classify b
  case inf.inf na nb => simp only [bne_comm]
  case inf.finite na nb sb eb => simp only [bne_comm]
  case finite.inf na sa ea nb => simp only [bne_comm]
  case finite.finite na sa ea nb sb eb => simp only [bne_comm, Nat.mul_comm sa, Nat.add_comm ea]
  all_goals rfl

/-! ### Negation -/

/-- R17: negation inverts bit 31 of all but a NaN. -/
theorem fneg_eq (a : Word) : fneg a = if classify a = .nan then cnan else a ^^^ 0x80000000 := by
  rw [fneg]; cases classify a <;> rfl

/-! ### The canonical NaN -/

/-- R16: a word is no NaN but, it may be, the canonical one. -/
def NanCanonical (w : Word) : Prop := classify w = .nan → w = cnan

theorem nanCanonical_cnan : NanCanonical cnan := fun _ => rfl

theorem nanCanonical_infinity (neg : Bool) : NanCanonical (infinity neg) := fun h => by simp at h

theorem nanCanonical_zero (neg : Bool) : NanCanonical (zero neg) := fun h => by simp at h

theorem nanCanonical_rn32 (neg : Bool) {n : Nat} (k : Nat) (hn : 0 < n) : NanCanonical (rn32 neg n k) :=
  fun h => absurd h (classify_rn32_ne_nan neg k hn)

theorem nanCanonical_addFinite (na : Bool) (sa ea : Nat) (nb : Bool) (sb eb : Nat) :
    NanCanonical (addFinite na sa ea nb sb eb) := by
  simp only [addFinite]
  split_ifs with h
  · exact nanCanonical_zero _
  · exact nanCanonical_rn32 _ _ (Int.natAbs_pos.2 h)

theorem nanCanonical_fadd (a b : Word) : NanCanonical (fadd a b) := by
  unfold fadd
  split
  · exact nanCanonical_cnan
  · exact nanCanonical_cnan
  · split_ifs
    · exact nanCanonical_infinity _
    · exact nanCanonical_cnan
  · exact nanCanonical_infinity _
  · exact nanCanonical_infinity _
  · exact nanCanonical_addFinite _ _ _ _ _ _

theorem nanCanonical_fmul (a b : Word) : NanCanonical (fmul a b) := by
  unfold fmul
  split
  · exact nanCanonical_cnan
  · exact nanCanonical_cnan
  · exact nanCanonical_infinity _
  · split_ifs
    · exact nanCanonical_cnan
    · exact nanCanonical_infinity _
  · split_ifs
    · exact nanCanonical_cnan
    · exact nanCanonical_infinity _
  · split_ifs with h
    · exact nanCanonical_zero _
    · exact nanCanonical_rn32 _ _ (Nat.mul_pos (Nat.pos_of_ne_zero h) (by positivity))

theorem nanCanonical_fneg (a : Word) : NanCanonical (fneg a) := by
  rw [fneg_eq]
  split_ifs with h
  · exact nanCanonical_cnan
  · exact fun hflip => absurd ((classify_flip_eq_nan_iff a).1 hflip) h

/-- Settles O49: `fsub` is an addition. -/
theorem everyNanResultIsCanonical : Obligations.EveryNanResultIsCanonical := fun a b =>
  ⟨nanCanonical_fadd a b, nanCanonical_fadd a (fneg b), nanCanonical_fmul a b, nanCanonical_fneg a⟩

end Sys2Proof.Machine
end

section
/-! PROOFS. What the parts of a pattern make it, and addition and multiplication in every case, in exact rationals
(R14, R17, R18). -/

namespace Sys2Proof.Machine

/-- R14: a pattern whose exponent field is not all ones is a finite value, subnormal where that field is 0. -/
theorem classify_finite_value {w : Word} (he : biasedExp w ≠ 255) :
    ∃ sig exp, classify w = .finite (signBit w) sig exp ∧
      (sig : ℚ) * 2 ^ exp / 2 ^ 149
        = if biasedExp w = 0 then (fraction w : ℚ) / 2 ^ 149
          else ((2 ^ 23 + fraction w : Nat) : ℚ) * (2 : ℚ) ^ ((biasedExp w : Int) - 150) := by
  by_cases h0 : biasedExp w = 0
  · exact ⟨fraction w, 0, classify_eq_subnormal h0, by rw [if_pos h0, pow_zero, mul_one]⟩
  · refine ⟨2 ^ 23 + fraction w, biasedExp w - 1, classify_eq_normal h0 he, ?_⟩
    rw [if_neg h0, show (biasedExp w : Int) - 150 = (biasedExp w - 1 : Nat) - (149 : Nat) by omega,
      zpow_sub₀ two_ne_zero, zpow_natCast, zpow_natCast, mul_div_assoc]

/-! ### Infinities and zeros among the operands -/

/-- A finite pattern has significand 0 exactly when it is one of the two zeros. -/
theorem sig_eq_zero_iff {w : Word} {neg : Bool} {sig exp : Nat} (h : classify w = .finite neg sig exp) :
    sig = 0 ↔ w = zero false ∨ w = zero true := by
  constructor
  · rintro rfl
    cases neg
    · exact .inl (eq_zero_of_classify h)
    · exact .inr (eq_zero_of_classify h)
  · rintro (rfl | rfl) <;> rw [classify_zero] at h <;> exact (FloatClass.finite.inj h).2.1.symm

/-- A finite pattern is the negative zero exactly when it has that sign and that significand. -/
theorem neg_and_sig_eq_zero_iff {w : Word} {neg : Bool} {sig exp : Nat} (h : classify w = .finite neg sig exp) :
    neg = true ∧ sig = 0 ↔ w = zero true := by
  constructor
  · rintro ⟨rfl, rfl⟩
    exact eq_zero_of_classify h
  · rintro rfl
    rw [classify_zero] at h
    obtain ⟨hneg, hsig, -⟩ := FloatClass.finite.inj h
    exact ⟨hneg.symm, hsig.symm⟩

theorem infinity_bne (na nb : Bool) : infinity (na != nb) = if na = nb then 0x7F800000 else 0xFF800000 := by
  cases na <;> cases nb <;> rfl

theorem zero_bne (na nb : Bool) : zero (na != nb) = if na = nb then 0x00000000 else 0x80000000 := by
  cases na <;> cases nb <;> rfl

/-- R17: an infinity plus anything but a NaN and the opposite infinity is that infinity. -/
theorem fadd_inf_left {a b : Word} {na : Bool} (ha : classify a = .inf na) (hb : classify b ≠ .nan) :
    fadd a b = if classify b = .inf (!na) then cnan else a := by
  obtain rfl := eq_infinity_of_classify ha
  match hc : classify b with
  | .nan => exact absurd hc hb
  | .inf nb => rw [fadd_inf_inf ha hc]; cases na <;> cases nb <;> rfl
  | .finite nb sb eb => rw [fadd_inf_finite ha hc, if_neg nofun]

/-- R18: an infinity times anything but a NaN and a zero is an infinity, negative where the signs differ. -/
theorem fmul_inf_left {a b : Word} {na : Bool} (ha : classify a = .inf na) (hb : classify b ≠ .nan) :
    fmul a b = if b = zero false ∨ b = zero true then cnan else infinity (na != signBit b) := by
  match hc : classify b with
  | .nan => exact absurd hc hb
  | .inf nb =>
    have hb := eq_infinity_of_classify hc
    rw [fmul_inf_inf ha hc, hb]
    cases na <;> cases nb <;> rfl
  | .finite nb sb eb =>
    rw [fmul_inf_finite ha hc, signBit_of_classify_finite hc]
    exact if_congr (sig_eq_zero_iff hc) rfl rfl

/-! ### Finite operands -/

/-- R17: an exact sum of 0 is +0, but -0 where both operands are -0. -/
theorem fadd_of_sum_eq_zero {a b : Word} {na nb : Bool} {sa ea sb eb : Nat} (ha : classify a = .finite na sa ea)
    (hb : classify b = .finite nb sb eb) (h : signedUnits na sa ea + signedUnits nb sb eb = 0) :
    fadd a b = if a = zero true ∧ b = zero true then zero true else zero false := by
  rw [fadd_finite ha hb, addFinite, if_pos h, ← apply_ite zero]
  congr 1
  rw [Bool.eq_iff_iff]
  simp only [← neg_and_sig_eq_zero_iff ha, ← neg_and_sig_eq_zero_iff hb, Bool.and_eq_true, beq_iff_eq,
    ite_eq_left_iff, Bool.false_eq_true, imp_false, not_not]
  tauto

/-- R17: an exact sum other than 0 is rounded once. -/
theorem fadd_of_sum_ne_zero {a b : Word} {na nb : Bool} {sa ea sb eb : Nat} (ha : classify a = .finite na sa ea)
    (hb : classify b = .finite nb sb eb) (h : signedUnits na sa ea + signedUnits nb sb eb ≠ 0) :
    fadd a b = rn32 (decide (signedUnits na sa ea + signedUnits nb sb eb < 0))
      (signedUnits na sa ea + signedUnits nb sb eb).natAbs 149 := by
  rw [fadd_finite ha hb, addFinite, if_neg h]

/-- The product of two finite values is 0 exactly when a significand is. -/
theorem signedUnits_mul_eq_zero_iff (na nb : Bool) (sa ea sb eb : Nat) :
    signedUnits na sa ea * signedUnits nb sb eb = 0 ↔ sa * sb = 0 := by
  rw [signedUnits_mul, signedUnits_eq_zero_iff]

/-- R18: an exact product of 0 is a zero, negative where the signs differ. -/
theorem fmul_of_mul_eq_zero {a b : Word} {na nb : Bool} {sa ea sb eb : Nat} (ha : classify a = .finite na sa ea)
    (hb : classify b = .finite nb sb eb) (h : signedUnits na sa ea * signedUnits nb sb eb = 0) :
    fmul a b = zero (na != nb) := by
  rw [fmul_finite ha hb, if_pos ((signedUnits_mul_eq_zero_iff ..).1 h)]

/-- R18: an exact product other than 0 is rounded once. -/
theorem fmul_of_mul_ne_zero {a b : Word} {na nb : Bool} {sa ea sb eb : Nat} (ha : classify a = .finite na sa ea)
    (hb : classify b = .finite nb sb eb) (h : signedUnits na sa ea * signedUnits nb sb eb ≠ 0) :
    fmul a b = rn32 (decide (signedUnits na sa ea * signedUnits nb sb eb < 0))
      (signedUnits na sa ea * signedUnits nb sb eb).natAbs 298 := by
  have hs := mt (signedUnits_mul_eq_zero_iff ..).2 h
  rw [fmul_finite ha hb, if_neg hs, signedUnits_mul, natAbs_signedUnits,
    decide_signedUnits_neg _ _ hs]

/-! ### Counts of units as rationals -/

theorem units_eq_zero_iff (q : Int) (c : Nat) : (q : ℚ) / 2 ^ c = 0 ↔ q = 0 := by
  rw [div_eq_zero_iff, Int.cast_eq_zero, or_iff_left (by positivity)]

theorem units_neg_iff (q : Int) (c : Nat) : (q : ℚ) / 2 ^ c < 0 ↔ q < 0 := by
  rw [div_lt_iff₀ (by positivity), zero_mul, Int.cast_lt_zero]

theorem abs_units (q : Int) (c : Nat) : |(q : ℚ) / 2 ^ c| = (q.natAbs : ℚ) / 2 ^ c := by
  rw [abs_div, abs_of_pos (by positivity : (0 : ℚ) < 2 ^ c), Nat.cast_natAbs, Int.cast_abs]

/-- Settles O50: the cases of `classify`, of an infinite operand, and of two finite ones by their exact sum and
product. -/
theorem addAndMultiplyRoundTheExactResult : Obligations.AddAndMultiplyRoundTheExactResult := by
  intro a b e f value
  refine ⟨classify_eq_nan, classify_eq_inf, classify_finite_value, fadd_comm a b, fmul_comm a b, rfl, fneg_eq a,
    fun ha => ⟨fadd_nan_left b ha, fmul_nan_left b ha⟩, fun neg ha hb => ⟨fadd_inf_left ha hb, ?_⟩, ?_⟩
  · rw [fmul_inf_left ha hb, infinity_bne]; rfl
  · intro na sa ea nb sb eb ha hb x y
    have hsum : x + y = (signedUnits na sa ea + signedUnits nb sb eb : Int) / 2 ^ 149 := by
      simp only [x, y, value, sign_mul_eq_signedUnits, Int.cast_add, add_div]
    have hmul : x * y = (signedUnits na sa ea * signedUnits nb sb eb : Int) / 2 ^ 298 := by
      simp only [x, y, value, sign_mul_eq_signedUnits, Int.cast_mul, div_mul_div_comm, ← pow_add, Nat.reduceAdd]
    rw [hsum, hmul]
    simp only [units_eq_zero_iff, units_neg_iff, abs_units, ne_eq]
    exact ⟨fadd_of_sum_eq_zero ha hb, fun h => ⟨_, _, rfl, fadd_of_sum_ne_zero ha hb h⟩,
      fun h => (fmul_of_mul_eq_zero ha hb h).trans (zero_bne na nb),
      fun h => ⟨_, _, rfl, fmul_of_mul_ne_zero ha hb h⟩⟩

end Sys2Proof.Machine
end

section
/-! PROOFS. The conversions between samples and binary32 values (R20, R21). -/

namespace Sys2Proof.Machine

/-! ### From a value to a sample -/

/-- R21: the clamped value, as the integer that the sample is. -/
theorem toInt_saturate16 (r : Int) : (saturate16 r).toInt = min 32767 (max (-32768) r) :=
  BitVec.toInt_ofInt_eq_self (by omega) (by omega) (by omega)

/-- R21: a finite value is rounded as a magnitude, given its sign, and clamped. -/
theorem toInt_f2i16_finite {v : Word} {neg : Bool} {sig exp : Nat} (h : classify v = .finite neg sig exp) :
    (f2i16 v).toInt = min 32767 (max (-32768)
      ((if neg then -1 else 1) * (roundEven (sig * 2 ^ exp) (2 ^ 149) : Int))) := by
  rw [f2i16, h]
  cases neg
  · exact (toInt_saturate16 _).trans (by rw [if_neg nofun, if_neg nofun, one_mul])
  · exact (toInt_saturate16 _).trans (by rw [if_pos rfl, if_pos rfl, neg_one_mul])

/-- A signed value is as far from an integer of its sign as its magnitude is from the integer's. -/
theorem abs_sub_of_same_sign (neg : Bool) (sig exp c m : Nat) :
    |(if neg then -1 else 1) * (sig : ℚ) * 2 ^ exp / 2 ^ c - (((if neg then -1 else 1) * (m : Int) : Int) : ℚ)|
      = |((sig * 2 ^ exp : Nat) : ℚ) / (2 ^ c : Nat) - m| := by
  push_cast
  rw [mul_assoc, mul_div_assoc, ← mul_sub, abs_mul, apply_ite abs, abs_neg, abs_one, ite_self, one_mul]

/-- Settles O52: rounding the magnitude is rounding the value, since nearness and evenness do not see the sign. -/
theorem outputConversionRoundsAndSaturates : Obligations.OutputConversionRoundsAndSaturates := by
  intro v
  match h : classify v with
  | .nan => simp only [f2i16, h]; rfl
  | .inf neg => simp only [f2i16, h]; cases neg <;> rfl
  | .finite neg sig exp =>
    obtain ⟨hle, heven⟩ := roundEven_nearest (sig * 2 ^ exp) (den := 2 ^ 149) (by positivity)
    have hfar := abs_sub_of_same_sign neg sig exp 149 (roundEven (sig * 2 ^ exp) (2 ^ 149))
    refine ⟨(if neg then -1 else 1) * (roundEven (sig * 2 ^ exp) (2 ^ 149) : Int), hfar.trans_le hle,
      fun htie => ?_, toInt_f2i16_finite h⟩
    have := heven (hfar.symm.trans htie)
    cases neg <;> simp only [if_true, if_false, Bool.false_eq_true] <;> omega

/-! ### From a sample to a value -/

/-- R15: an integer of at most 24 bits is rounded to itself. -/
theorem classify_rn32_natCast (neg : Bool) {n : Nat} (hn : 0 < n) (hlt : n < 2 ^ 24) :
    ∃ sig exp, classify (rn32 neg n 0) = .finite neg sig exp ∧ sig * 2 ^ exp = n * 2 ^ 149 := by
  have hlog : n.log2 < 24 := (Nat.log2_lt hn.ne').2 hlt
  have hunit : rnUnit n 0 = n.log2 + 126 := rfl
  have hsplit : n * 2 ^ 149 = n * 2 ^ (23 - n.log2) * 2 ^ (n.log2 + 126) := by
    rw [mul_assoc, ← pow_add]; congr 2; omega
  have hsig : rnSig n 0 = n * 2 ^ (23 - n.log2) := by
    rw [rnSig, hunit, Nat.zero_add, hsplit, roundEven_mul_self _ (by positivity)]
  have hval : rnSig n 0 * 2 ^ rnUnit n 0 = n * 2 ^ 149 := by rw [hsig, hunit, hsplit]
  obtain ⟨sig, exp, hc, hsig⟩ := classify_rn32_of_lt neg (k := 0) hn <| by
    rw [hval]
    refine (Nat.mul_lt_mul_of_pos_right hlt (by positivity)).trans_le ?_
    rw [← pow_add]
    exact pow_le_pow_right₀ (by omega) (by omega)
  exact ⟨sig, exp, hc, hsig.trans hval⟩

/-- R20: `i2f` is the sample's sign and magnitude, in units of `2 ^ (-149)`. -/
theorem classify_i2f (s : Sample) :
    ∃ sig exp, classify (i2f s) = .finite (decide (s.toInt < 0)) sig exp ∧
      sig * 2 ^ exp = s.toInt.natAbs * 2 ^ 149 := by
  have hhigh := s.toInt_lt
  have hlow := s.le_toInt
  rw [i2f]
  split_ifs with h
  · rw [h]; exact ⟨0, 0, classify_zero false, rfl⟩
  · exact classify_rn32_natCast _ (Int.natAbs_pos.2 h) (by omega)

/-- An integer is its sign times its magnitude. -/
theorem sign_mul_natAbs (z : Int) : (if decide (z < 0) then -1 else 1) * (z.natAbs : Int) = z := by
  simp only [decide_eq_true_eq]; split_ifs <;> omega

/-- Settles O51: the units of `i2f` are those of the integer. -/
theorem sampleConversionIsExact : Obligations.SampleConversionIsExact := by
  refine ⟨by decide, fun s => ?_⟩
  obtain ⟨sig, exp, hc, hval⟩ := classify_i2f s
  have hval' : (sig : ℚ) * 2 ^ exp = s.toInt.natAbs * 2 ^ 149 := by exact_mod_cast hval
  refine ⟨_, sig, exp, hc, ?_⟩
  rw [mul_assoc, hval', ← mul_assoc, mul_div_cancel_right₀ _ (by positivity)]
  simpa only [Int.cast_mul, Int.cast_natCast, Int.cast_ite, Int.cast_neg, Int.cast_one]
    using congrArg (Int.cast (R := ℚ)) (sign_mul_natAbs s.toInt)

/-- Settles O53: a whole value is not rounded, and a sample is in range. -/
theorem sampleRoundTripIsIdentity : Obligations.SampleRoundTripIsIdentity := by
  intro s
  obtain ⟨sig, exp, hc, hval⟩ := classify_i2f s
  have hhigh := s.toInt_lt
  have hlow := s.le_toInt
  apply BitVec.eq_of_toInt_eq
  rw [toInt_f2i16_finite hc, hval, roundEven_mul_self _ (by positivity), sign_mul_natAbs]
  omega

end Sys2Proof.Machine
end

section
/-! PROOFS. The block map: which blocks are a bank (R49, R163). -/

namespace Sys2Proof.Machine

/-- The `2·P` numbers from `base` on are two runs of `P`, one for each channel. -/
theorem mem_two_runs_iff (base P x : Nat) :
    (base ≤ x ∧ x < base + 2 * P) ↔ ∃ ch p, ch < 2 ∧ p < P ∧ x = base + P * ch + p := by
  constructor
  · rintro ⟨hlow, hhigh⟩
    by_cases hleft : x < base + P
    · exact ⟨0, x - base, by omega, by omega, by omega⟩
    · exact ⟨1, x - base - P, by omega, by omega, by omega⟩
  · rintro ⟨ch, p, hch, hp, rfl⟩
    have : P * ch ≤ P * 1 := Nat.mul_le_mul_left P (by omega)
    omega

/-- R49, R163: a bank is the blocks `TF(k, ch, p)` of its two channels and `P` partitions. -/
theorem inBank_iff (b : Build) (bank : Bool) (x : Nat) :
    inBank b bank x = true ↔ ∃ ch p, ch < 2 ∧ p < b.P ∧ x = tfBlock b (bankNumber bank) ch p := by
  rw [inBank, Bool.and_eq_true, decide_eq_true_eq, decide_eq_true_eq]
  exact mem_two_runs_iff _ b.P x

/-- Settles O31: the numbers and addresses are the model's definitions; a bank is `inBank_iff`. -/
theorem blockMapIsTheSpecs : Obligations.BlockMapIsTheSpecs := fun b =>
  ⟨rfl, rfl, rfl, rfl, rfl, fun _ => rfl, fun _ => rfl, fun _ _ _ => rfl, fun _ _ => rfl, inBank_iff b⟩

end Sys2Proof.Machine
end

section
/-! PROOFS. The engine's turn: the step of the pending command (R59, R262). -/

namespace Sys2Proof.Machine

/-- R59: on the engine's turn outside INIT the step is the meaning of the command it fetches. -/
theorem step_of_engineTurn {s : State} {i : Instr} (hturn : engineTurn s = true) (hfetch : fetch? s = some i) :
    step s = exec i s := by
  have hinit := ((fetch?_eq_some_iff s i).1 hfetch).1
  simp [step, event, engineStep, hturn, hinit, hfetch]

/-- Settles O4: the command fetched is the decoded pending word. -/
theorem stepRunsTheDecodedPendingCommand : Obligations.StepRunsTheDecodedPendingCommand :=
  fun s c i hturn hinit hpending hdecode =>
    step_of_engineTurn hturn ((fetch?_eq_some_iff s i).2 ⟨hinit, c, hpending, hdecode⟩)

/-- R73: decoding the byte lanes of a word is decoding the word. -/
theorem decodeBytes_wordBytes (c : Word) : decodeBytes (wordBytes c) = decode c :=
  congrArg decode (bytesWord_wordBytes c)

/-- A command read from the table's bits is the command its word decodes to. -/
theorem decode_of_decodeTableWord {nbits w : Nat} {i : Instr} (h : decodeTableWord nbits w = some i) :
    decode (BitVec.ofNat 32 (w % 2 ^ nbits)) = .ok i := by
  rw [decodeTableWord, decodeBytes_wordBytes] at h
  cases hd : decode (BitVec.ofNat 32 (w % 2 ^ nbits)) with
  | error e => simp [hd, Except.toOption] at h
  | ok j => simpa [hd, Except.toOption] using h

/-- A command just placed is due. -/
theorem engineTurn_placeCommand (c : Word) (s : State) : engineTurn (placeCommand c s) = true := by
  simp [engineTurn, engineWork, remaining]

/-- Settles O5: the placed word is pending and due, so O4 applies. -/
theorem placedWordIsRunByTheNextStep : Obligations.PlacedWordIsRunByTheNextStep := fun s _ i h =>
  stepRunsTheDecodedPendingCommand _ _ i (engineTurn_placeCommand _ s) rfl rfl (decode_of_decodeTableWord h)

end Sys2Proof.Machine
end

section
/-! PROOFS. Host accesses to the register page (R32 to R46, R75, R79). -/

namespace Sys2Proof.Machine

/-- R32, R70: the offset of a register names it in the window. -/
theorem targetAt?_regOffset (b : Build) (r : Reg) : targetAt? b (regOffset r) = some (.reg r) := by
  cases r <;> rfl

/-- R79: a register is reached unless a protected one is written while BUSY. -/
theorem accessTarget_regOffset (s : State) (w : Bool) (r : Reg) (h : (s.busy && (w && busyProtected r)) = false) :
    accessTarget s w 4 (regOffset r) = some (.reg r) :=
  (accessTarget_eq_some_iff s w 4 _ _).2 ⟨rfl, by cases r <;> rfl, targetAt?_regOffset s.build r, h, rfl⟩

/-- R75: every register is readable at any time, and a read only answers its value. -/
theorem hostRead_regOffset (s : State) (r : Reg) :
    hostRead 4 (regOffset r) s = respond (.read (readReg s r) false) s := by
  rw [hostRead, accessTarget_regOffset s false r (Bool.and_false _)]; rfl

/-- A write of a register does what its rule says, unless R79 refuses it. -/
theorem hostWrite_regOffset (v : Word) {s : State} {r : Reg} (h : (s.busy && busyProtected r) = false) :
    hostWrite 4 (regOffset r) v s = respond (.write false) (writeReg r v s) :=
  hostWrite_admitted 4 _ v s _ (accessTarget_regOffset s true r h)

/-! ### The fields of a register -/

/-- R34: PCOUNT is wide enough for every `P`. -/
theorem paramWord_pcount (b : Build) : ((paramWord b).extractLsb' 0 8).toNat = b.P := by
  have hP := b.P_le
  have hfield : (paramWord b).extractLsb' 0 8 = BitVec.ofNat 8 b.P := BitVec.extractLsb'_append_eq_right
  rw [hfield, BitVec.toNat_ofNat, Nat.mod_eq_of_lt (by omega)]

/-- R34: LOG2B is wide enough for every `B`. -/
theorem paramWord_log2B (b : Build) : ((paramWord b).extractLsb' 8 4).toNat = b.log2B := by
  have hB := b.log2B_le
  have hfield : (paramWord b).extractLsb' 8 4 = BitVec.ofNat 4 b.log2B :=
    (BitVec.extractLsb'_append_eq_of_le (by omega)).trans BitVec.extractLsb'_append_eq_right
  rw [hfield, BitVec.toNat_ofNat, Nat.mod_eq_of_lt (by omega)]

/-- R34: bits 31:12 of PARAM are the same at every build. -/
theorem paramWord_extractLsb'_high (b : Build) {start len : Nat} (h : 12 ≤ start) :
    (paramWord b).extractLsb' start len = ((0x01 : BitVec 8) ++ (0 : BitVec 12)).extractLsb' (start - 12) len := by
  rw [paramWord, BitVec.extractLsb'_append_eq_of_le (by omega), BitVec.extractLsb'_append_eq_of_le (by omega)]
  congr 1

/-- R36: the three bits of STATUS, and its reserved bits. -/
theorem statusWord_fields (s : State) :
    (statusWord s).getLsbD 0 = s.busy ∧ (statusWord s).getLsbD 1 = s.activeBank ∧
      (statusWord s).getLsbD 2 = s.init ∧ (statusWord s).extractLsb' 3 29 = 0 := by
  unfold statusWord
  cases s.init <;> cases s.activeBank <;> cases s.busy <;> decide

/-- R35: PASSTHRU is bit 0 of CTRL, and the other bits are reserved. -/
theorem ctrlWord_fields (s : State) :
    (readReg s .ctrl).getLsbD 0 = s.passthru ∧ (readReg s .ctrl).extractLsb' 1 31 = 0 := by
  change ((BitVec.ofBool s.passthru).setWidth 32).getLsbD 0 = s.passthru ∧
    ((BitVec.ofBool s.passthru).setWidth 32).extractLsb' 1 31 = 0
  cases s.passthru <;> decide

/-- Settles O17: the offsets with their data are the register page, register by register. -/
theorem registerReadsReturnTheirFields : Obligations.RegisterReadsReturnTheirFields := by
  intro s
  obtain ⟨hpassthru, hctrl⟩ := ctrlWord_fields s
  obtain ⟨hbusy, hbank, hinit, hstatus⟩ := statusWord_fields s
  refine ⟨readReg s .param, readReg s .ctrl, readReg s .status, paramWord_pcount s.build, paramWord_log2B s.build,
    paramWord_extractLsb'_high s.build (by omega), paramWord_extractLsb'_high s.build (by omega), hpassthru, hctrl,
    hbusy, hbank, hinit, hstatus, fun a d hmem => ?_⟩
  have hpage : (a, d) ∈ allRegs.map fun r => (regOffset r, readReg s r) := hmem
  obtain ⟨r, -, hr⟩ := List.mem_map.1 hpage
  cases hr
  exact hostRead_regOffset s r

/-! ### Writes -/

/-- The RO registers of R32. -/
def readOnlyRegs : List Reg := [.id, .param, .status, .cursor, .errCode, .errCmd, .tickCount, .skipCount]

/-- R32: a write of a RO register completes and is ignored, while BUSY too. -/
theorem hostWrite_readOnly (v : Word) (s : State) {r : Reg} (h : r ∈ readOnlyRegs) :
    hostWrite 4 (regOffset r) v s = respond (.write false) s := by
  have hfree : ∀ r ∈ readOnlyRegs, busyProtected r = false := by decide
  have hignored : ∀ r ∈ readOnlyRegs, writeReg r v s = s := by simp [readOnlyRegs, writeReg]
  rw [hostWrite_regOffset v (by rw [hfree r h, Bool.and_false]), hignored r h]

/-- Settles O18: no register is protected while idle. -/
theorem registerWritesStoreImplementedBits : Obligations.RegisterWritesStoreImplementedBits := by
  intro s v hidle
  have hwrite : ∀ r, hostWrite 4 (regOffset r) v s = respond (.write false) (writeReg r v s) := fun r =>
    hostWrite_regOffset v (by rw [hidle, Bool.false_and])
  refine ⟨hwrite .ctrl, hwrite .gain, ?_, ?_, fun a ha => ?_⟩
  · rw [← BitVec.setWidth_eq_extractLsb' (by omega)]; exact hwrite .intEnable
  · rw [← BitVec.setWidth_eq_extractLsb' (by omega)]; exact hwrite .audioAvail
  · have hlist : a ∈ readOnlyRegs.map regOffset := ha
    obtain ⟨r, hr, rfl⟩ := List.mem_map.1 hlist
    exact hostWrite_readOnly v s hr

/-- Settles O20: the reset state is a closed value, and each register's read of it evaluates to its entry of the
reset column. -/
theorem resetColumnHolds : Obligations.ResetColumnHolds :=
  ⟨rfl, by decide, rfl, by decide, rfl, rfl, rfl, rfl, rfl, rfl, rfl, rfl, rfl, rfl, rfl, by decide⟩

end Sys2Proof.Machine
end

section
/-! PROOFS. Soundness (R55, R58, R221). A sound state is one whose cursor, error record, engine control and memory are
sound; each of these speaks of its own fields, so that an update keeps the parts whose fields it leaves alone. -/

namespace Sys2Proof.Machine

/-- R58, R221: the error record is empty while ERR is 0, and its code is one of R221. -/
structure ErrorsSound (flags : BitVec 5) (code : BitVec 8) (cmd : Word) : Prop where
  empty : errFlag flags = false → code = 0 ∧ cmd = 0
  legal : code.toNat ≤ 5

/-- R55, R58, R250: INIT is busy with nothing pending and bank 0 active; outside it a command is pending exactly while
BUSY, and it is one that R222 accepts. -/
structure ControlSound (b : Build) (init busy bank : Bool) (pending : Option Word) : Prop where
  inInit : init = true → busy = true ∧ pending = none ∧ bank = false
  outsideInit : init = false → pending.isSome = busy
  acceptable : ∀ c, pending = some c → ∃ i, decode c = .ok i ∧ operandError b bank i = none

theorem errorsSound_iff (s : State) : ErrorsSound s.intStatus s.errCode s.errCmd ↔
    errorRecordSound s = true ∧ errorCodeLegal s = true := by
  have hrecord : errorRecordSound s = true ↔ (errFlag s.intStatus = false → s.errCode = 0 ∧ s.errCmd = 0) := by
    cases h : errFlag s.intStatus <;> simp [errorRecordSound, h]
  rw [hrecord, errorCodeLegal, decide_eq_true_eq]
  exact ⟨fun h => ⟨h.empty, h.legal⟩, fun ⟨hempty, hlegal⟩ => ⟨hempty, hlegal⟩⟩

theorem pendingAcceptable_iff (s : State) : pendingAcceptable s = true ↔
    ∀ c, s.pending = some c → ∃ i, decode c = .ok i ∧ operandError s.build s.activeBank i = none := by
  unfold pendingAcceptable
  cases s.pending with
  | none => simp
  | some c => cases hd : decode c <;> simp [hd]

theorem controlSound_iff (s : State) : ControlSound s.build s.init s.busy s.activeBank s.pending ↔
    initIsBusy s = true ∧ pendingMatchesBusy s = true ∧ initBankZero s = true ∧ pendingAcceptable s = true := by
  rw [pendingAcceptable_iff]
  unfold initIsBusy pendingMatchesBusy initBankZero
  cases s.init with
  | true =>
    simp only [Bool.not_true, Bool.false_or, if_true, Option.isNone_iff_eq_none, Bool.not_eq_true']
    refine ⟨fun h => ?_, fun ⟨hbusy, hpending, hbank, hacc⟩ => ⟨fun _ => ⟨hbusy, hpending, hbank⟩, nofun, hacc⟩⟩
    obtain ⟨hbusy, hpending, hbank⟩ := h.inInit rfl
    exact ⟨hbusy, hpending, hbank, h.acceptable⟩
  | false =>
    simp only [Bool.not_false, Bool.true_or, Bool.false_eq_true, if_false, beq_iff_eq, true_and]
    exact ⟨fun h => ⟨h.outsideInit rfl, h.acceptable⟩, fun ⟨hpending, hacc⟩ => ⟨nofun, fun _ => hpending, hacc⟩⟩

/-- Soundness, part by part. -/
theorem sound_iff (s : State) : s.sound = true ↔
    s.cursor.toNat < s.build.P ∧ ErrorsSound s.intStatus s.errCode s.errCmd ∧
      ControlSound s.build s.init s.busy s.activeBank s.pending ∧ s.mem.wf = true := by
  rw [errorsSound_iff, controlSound_iff]
  simp only [State.sound, cursorInRange, Bool.and_eq_true, decide_eq_true_eq]
  tauto

/-! ### The error record -/

@[simp] theorem errFlag_or (f g : BitVec 5) : errFlag (f ||| g) = (errFlag f || errFlag g) := BitVec.getLsbD_or

/-- R224: raising flags other than ERR does not change ERR. -/
theorem errFlag_or_of_clear (f : BitVec 5) {g : BitVec 5} (h : errFlag g = false) : errFlag (f ||| g) = errFlag f := by
  rw [errFlag_or, h, Bool.or_false]

/-- The error record speaks of no flag but ERR. -/
theorem ErrorsSound.of_errFlag_eq {f g : BitVec 5} {code : BitVec 8} {cmd : Word} (h : ErrorsSound f code cmd)
    (hflag : errFlag g = errFlag f) : ErrorsSound g code cmd :=
  ⟨fun hclear => h.empty (hflag.symm.trans hclear), h.legal⟩

theorem errorCode_le (e : CmdError) : (errorCode e).toNat ≤ 5 := by cases e <;> decide

/-- R224: taking an error keeps the record sound. -/
theorem errorsSound_recordCmdError (e : CmdError) (c : Word) {s : State}
    (h : ErrorsSound s.intStatus s.errCode s.errCmd) :
    ErrorsSound (recordCmdError e c s).intStatus (recordCmdError e c s).errCode (recordCmdError e c s).errCmd := by
  cases hflag : errFlag s.intStatus with
  | true =>
    rw [recordCmdError_later e c s hflag]
    exact h.of_errFlag_eq (errFlag_or_of_clear _ rfl)
  | false =>
    have hset : errFlag (s.intStatus ||| flagErr) = true := (errFlag_or _ _).trans (Bool.or_true _)
    rw [recordCmdError_first e c s hflag]
    exact ⟨fun hclear => Bool.noConfusion (hset.symm.trans hclear), errorCode_le e⟩

/-- R225: clearing ERR empties the record, and not clearing it leaves ERR and the record as they are. -/
theorem errorsSound_clearIntStatus (v : Word) {s : State} (h : ErrorsSound s.intStatus s.errCode s.errCmd) :
    ErrorsSound (clearIntStatus v s).intStatus (clearIntStatus v s).errCode (clearIntStatus v s).errCmd := by
  rw [clearIntStatus_intStatus, clearIntStatus_errCode, clearIntStatus_errCmd]
  cases hv : v.getLsbD 3 with
  | true => exact ⟨fun _ => ⟨rfl, rfl⟩, Nat.zero_le 5⟩
  | false =>
    refine h.of_errFlag_eq ?_
    simp [-BitVec.getLsbD_eq_getElem, errFlag, hv]

/-! ### The engine's events -/

/-- With no INIT and nothing pending, BUSY 0 is all that R55 asks. -/
theorem controlSound_of_idle {s : State} (hinit : s.init = false) (hpending : s.pending = none)
    (hbusy : s.busy = false) : ControlSound s.build s.init s.busy s.activeBank s.pending := by
  rw [hinit, hpending, hbusy]; exact ⟨nofun, fun _ => rfl, nofun⟩

/-- R251: the end of INIT keeps soundness. -/
theorem sound_endInit {s : State} (hinit : s.init = true) (h : s.sound = true) : (endInit s).sound = true := by
  obtain ⟨hcursor, herrors, hcontrol, -⟩ := (sound_iff s).1 h
  obtain ⟨-, hpending, -⟩ := hcontrol.inInit hinit
  exact (sound_iff _).2 ⟨hcursor, herrors, controlSound_of_idle rfl hpending rfl, rfl⟩

/-- What no effect of a command changes, and the parts of soundness that each effect keeps. -/
structure EffectKeeps (s t : State) : Prop where
  build : t.build = s.build
  init : t.init = s.init
  errors : ErrorsSound s.intStatus s.errCode s.errCmd → ErrorsSound t.intStatus t.errCode t.errCmd
  cursor : s.cursor.toNat < s.build.P → t.cursor.toNat < s.build.P
  wf : s.mem.wf = true → t.mem.wf = true

/-- An effect that only stores a block. -/
theorem effectKeeps_setBlock (b : Nat) (ws : List Word) (s : State) : EffectKeeps s (setBlock b ws s) :=
  ⟨rfl, rfl, id, id, wf_writeBlock _ _ _⟩

/-- R182: the cursor after a convolution tick is in range. -/
theorem nextCursor_lt (bd : Build) (c : BitVec 8) : (nextCursor bd c).toNat < bd.P := by
  have hmod : (c.toNat + 1) % bd.P < bd.P := Nat.mod_lt _ bd.P_pos
  rw [nextCursor, BitVec.toNat_ofNat]
  exact (Nat.mod_le _ _).trans_lt hmod

theorem effectKeeps_convolve (s : State) : EffectKeeps s (convolve s) :=
  ⟨rfl, rfl, id, fun _ => nextCursor_lt s.build s.cursor,
    fun h => wf_setOutputs _ _ _ (wf_olsMemory s.build s.cursor (bankNumber s.activeBank) s.mem h)⟩

theorem effectKeeps_passthrough (s : State) : EffectKeeps s (passthrough s) :=
  ⟨rfl, rfl, id, id, wf_setOutputs _ _ _⟩

theorem effectKeeps_skipTick (s : State) : EffectKeeps s (skipTick s) :=
  ⟨rfl, rfl, fun h => h.of_errFlag_eq (errFlag_or_of_clear _ rfl), id, id⟩

/-- The handshake after a tick keeps what the tick kept. -/
theorem EffectKeeps.completeAudio {s t : State} (h : EffectKeeps s t) : EffectKeeps s (completeAudio t) :=
  ⟨h.build, h.init, fun herr => (h.errors herr).of_errFlag_eq (errFlag_or_of_clear _ rfl), h.cursor, h.wf⟩

/-- The three ways of R181. -/
theorem effectKeeps_tickEffect (s : State) : EffectKeeps s (tickEffect s) := by
  unfold tickEffect
  split_ifs
  · exact effectKeeps_skipTick s
  · exact (effectKeeps_passthrough s).completeAudio
  · exact (effectKeeps_convolve s).completeAudio

/-- The effect of a command, as its `exec` hands it to `perform`. -/
def commandEffect : Instr → State → State
  | .nop, s => s
  | .clear dst, s => setBlock dst.toNat (zeroBlock s.build) s
  | .copy dst src, s => setBlock dst.toNat (readBlock s.build s.mem src.toNat) s
  | .cmac acc a b, s => setBlock acc.toNat (cmacWords (readBlock s.build s.mem acc.toNat)
      (readBlock s.build s.mem a.toNat) (readBlock s.build s.mem b.toNat)) s
  | .fft blk, s => setBlock blk.toNat (xform s.build .fwd (readBlock s.build s.mem blk.toNat)) s
  | .ifft blk, s => setBlock blk.toNat (xform s.build .inv (readBlock s.build s.mem blk.toNat)) s
  | .part dst src, s => setBlock dst.toNat
      (xform s.build .fwd (partInput s.build (readWords s.mem (elmAddr src.toNat 0) s.build.B))) s
  | .tick, s => tickEffect s
  | .commit, s => { s with activeBank := !s.activeBank, mem := clearHistory s.build s.mem }
  | .clrstate, s => { s with mem := clearHistory s.build s.mem, cursor := 0 }

/-- Every command is performed with its own effect (R59). -/
theorem exec_eq_perform (i : Instr) (s : State) : exec i s = perform i (commandEffect i) s := by
  cases i <;> rfl

/-- No effect of a command breaks an invariant. -/
theorem effectKeeps_commandEffect (i : Instr) (s : State) : EffectKeeps s (commandEffect i s) := by
  cases i with
  | nop => exact ⟨rfl, rfl, id, id, id⟩
  | clear | copy | cmac | fft | ifft | part => exact effectKeeps_setBlock _ _ s
  | tick => exact effectKeeps_tickEffect s
  | commit => exact ⟨rfl, rfl, id, id, wf_clearHistory _ _⟩
  | clrstate => exact ⟨rfl, rfl, id, fun _ => s.build.P_pos, wf_clearHistory _ _⟩

/-- R226: a command that completes after an effect that keeps the invariants leaves a sound state. -/
theorem sound_complete {s t : State} (hinit : s.init = false) (h : s.sound = true) (hkeeps : EffectKeeps s t) :
    (complete t).sound = true := by
  obtain ⟨hcursor, herrors, -, hmem⟩ := (sound_iff s).1 h
  refine (sound_iff _).2 ⟨?_, (hkeeps.errors herrors).of_errFlag_eq (errFlag_or_of_clear _ rfl),
    controlSound_of_idle (s := complete t) (hkeeps.init.trans hinit) rfl rfl, hkeeps.wf hmem⟩
  rw [complete_build, hkeeps.build]
  exact hkeeps.cursor hcursor

/-- R107, R163: a command that is abandoned leaves a sound state. -/
theorem sound_abandon (e : CmdError) (c : Word) {s : State} (hinit : s.init = false) (h : s.sound = true) :
    (abandon e c s).sound = true := by
  obtain ⟨hcursor, herrors, -, hmem⟩ := (sound_iff s).1 h
  refine (sound_iff _).2 ⟨by simpa using hcursor, ?_,
    controlSound_of_idle ((abandon_init e c s).trans hinit) (abandon_pending e c s) (abandon_busy e c s),
    by simpa using hmem⟩
  exact errorsSound_recordCmdError e c herrors

/-- R59: a command's step keeps soundness. -/
theorem sound_exec {s t : State} {i : Instr} (hinit : s.init = false) (h : s.sound = true)
    (hexec : exec i s = .next t) : t.sound = true := by
  rw [exec_eq_perform] at hexec
  obtain ⟨-, rfl⟩ | ⟨e, -, rfl⟩ := perform_cases i _ s t hexec
  · exact sound_complete hinit h (effectKeeps_commandEffect i s)
  · exact sound_abandon e _ hinit h

/-! ### The host's events -/

/-- Soundness does not speak of bus responses. -/
theorem sound_respond (r : Response) (s : State) : (respond r s).sound = s.sound := rfl

/-- Soundness does not speak of the host's operations. -/
theorem sound_with_host (ops : List HostOp) (s : State) : State.sound { s with host := ops } = s.sound := rfl

/-- Soundness does not speak of the latency. -/
theorem sound_countDown (s : State) : (countDown s).sound = s.sound := by
  unfold countDown; split <;> rfl

/-- A memory in canonical form may take the place of another. -/
theorem sound_with_mem {s : State} {m : Memory} (h : s.sound = true) (hm : m.wf = true) :
    State.sound { s with mem := m } = true := by
  obtain ⟨hcursor, herrors, hcontrol, -⟩ := (sound_iff s).1 h
  exact (sound_iff _).2 ⟨hcursor, herrors, hcontrol, hm⟩

theorem wf_of_sound {s : State} (h : s.sound = true) : s.mem.wf = true := ((sound_iff s).1 h).2.2.2

/-- R222: a word that the issue rule accepts is pending in a sound state. -/
theorem sound_accept {c : Word} {s : State} (h : s.sound = true) (haccept : issueError s c = none) :
    (accept c s).sound = true := by
  obtain ⟨hcursor, herrors, hcontrol, hmem⟩ := (sound_iff s).1 h
  obtain ⟨hidle, i, hdecode, hoperands⟩ := (issueError_eq_none_iff s c).1 haccept
  have hinit : s.init = false := Bool.eq_false_of_not_eq_true fun hi => by
    have hbusy := (hcontrol.inInit hi).1
    simp [hidle] at hbusy
  refine (sound_iff _).2 ⟨hcursor, herrors, ⟨fun hi => ?_, fun _ => rfl, fun c' hc => ?_⟩, hmem⟩
  · exact Bool.noConfusion (hinit.symm.trans hi)
  · cases hc
    exact ⟨i, hdecode, hoperands⟩

/-- R224: taking an error keeps soundness. -/
theorem sound_recordCmdError (e : CmdError) (c : Word) {s : State} (h : s.sound = true) :
    (recordCmdError e c s).sound = true := by
  obtain ⟨hcursor, herrors, hcontrol, hmem⟩ := (sound_iff s).1 h
  rw [sound_iff, recordCmdError_cursor, recordCmdError_build, recordCmdError_mem]
  exact ⟨hcursor, errorsSound_recordCmdError e c herrors, by simpa using hcontrol, hmem⟩

/-- R225: clearing INT_STATUS keeps soundness. -/
theorem sound_clearIntStatus (v : Word) {s : State} (h : s.sound = true) : (clearIntStatus v s).sound = true := by
  obtain ⟨hcursor, herrors, hcontrol, hmem⟩ := (sound_iff s).1 h
  rw [sound_iff, clearIntStatus_cursor, clearIntStatus_build, clearIntStatus_mem]
  exact ⟨hcursor, errorsSound_clearIntStatus v herrors, by simpa using hcontrol, hmem⟩

/-- A CMD write keeps soundness (R222, R223). -/
theorem sound_issue (c : Word) {s : State} (h : s.sound = true) : (issue c s).sound = true := by
  obtain ⟨haccept, heq⟩ | ⟨e, -, heq⟩ := issue_cases c s
  · rw [heq]; exact sound_accept h haccept
  · rw [heq]; exact sound_recordCmdError e c h

/-- A register write keeps soundness: only CMD and INT_STATUS hold fields that it speaks of. -/
theorem sound_writeReg (r : Reg) (v : Word) {s : State} (h : s.sound = true) : (writeReg r v s).sound = true := by
  cases r with
  | cmd => exact sound_issue v h
  | intStatus => exact sound_clearIntStatus v h
  | ctrl | gain | intEnable | audioAvail => exact h
  | id | param | status | cursor | errCode | errCmd | tickCount | skipCount => exact h

theorem sound_writeTarget (t : Target) (v : Word) {s : State} (h : s.sound = true) :
    (writeTarget t v s).sound = true := by
  cases t with
  | reg r => exact sound_writeReg r v h
  | audio x k => exact sound_with_mem h (wf_writeSample _ _ _ (wf_of_sound h))
  | elm b w => exact sound_with_mem h (wf_writeWord _ _ _ (wf_of_sound h))

theorem sound_hostWrite (size a : Nat) (v : Word) {s : State} (h : s.sound = true) :
    (hostWrite size a v s).sound = true := by
  cases ht : accessTarget s true size a with
  | none => rw [hostWrite_refused size a v s ht]; exact h
  | some t => rw [hostWrite_admitted size a v s t ht]; exact sound_writeTarget t v h

/-- R250: the platform's reset leads to a sound state from any state whose memory is canonical. -/
theorem sound_platformReset {s : State} (h : s.mem.wf = true) : (platformReset s).sound = true :=
  (sound_iff _).2 ⟨s.build.P_pos, ⟨fun _ => ⟨rfl, rfl⟩, Nat.zero_le 5⟩, ⟨fun _ => ⟨rfl, rfl, rfl⟩, nofun, nofun⟩, h⟩

theorem sound_hostOp (op : HostOp) {s : State} (h : s.sound = true) : (hostOp op s).sound = true := by
  obtain ⟨size, a, -, heq⟩ | ⟨size, a, v, -, heq⟩ | ⟨-, r, heq⟩ | ⟨-, heq⟩ := hostOp_cases op s
  · obtain ⟨r, hr⟩ := hostRead_eq_respond size a s
    rw [heq, hr, sound_respond, h]
  · rw [heq]; exact sound_hostWrite size a v h
  · rw [heq, sound_with_host, sound_respond, h]
  · rw [heq]; exact sound_platformReset (wf_of_sound h)

theorem sound_hostStep {s : State} (h : s.sound = true) : (hostStep s).sound = true := by
  unfold hostStep
  split
  · exact h
  · exact sound_hostOp _ (by rw [sound_countDown, sound_with_host, h])

/-- Settles O24: each of the three things that a step can do keeps soundness. -/
theorem everyStepKeepsSoundness : Obligations.EveryStepKeepsSoundness := by
  intro s t hsound hstep
  obtain ⟨-, hinit, rfl⟩ | ⟨-, hinit, c, i, -, -, hexec⟩ | ⟨-, rfl⟩ := step_cases s t hstep
  · exact sound_endInit hinit hsound
  · exact sound_exec hinit hsound hexec
  · exact sound_hostStep hsound

/-- Settles O23: the reset state is the platform's reset of itself, as far as soundness speaks of it, and its memory
lists nothing. -/
theorem resetStateIsSound : Obligations.ResetStateIsSound :=
  ⟨sound_platformReset (s := State.reset) rfl, rfl⟩

end Sys2Proof.Machine
end

section
/-! PROOFS. The window's map (R70, R74, R76, R77): what each offset names, and which offsets name nothing. -/

namespace Sys2Proof.Machine

/-- R70, R76: the four buffers are the four 0x200-byte parts of the audio region. -/
theorem audioBase_eq_part (x : AudioBuf) : ∃ i, i < 4 ∧ audioBase x = 0x1000 + 0x200 * i ∧ audioPart i = x := by
  cases x with
  | inL => exact ⟨0, by decide⟩
  | inR => exact ⟨1, by decide⟩
  | outL => exact ⟨2, by decide⟩
  | outR => exact ⟨3, by decide⟩

/-- R76: every sample lies in the audio region, at a word offset. -/
theorem audioAddr_bounds {b : Build} (x : AudioBuf) {k : Nat} (h : k < b.B) :
    0x1000 ≤ audioAddr x k ∧ audioAddr x k < 0x1800 ∧ audioAddr x k % 4 = 0 := by
  obtain ⟨i, hi, hbase, -⟩ := audioBase_eq_part x
  have hB := b.B_le
  rw [audioAddr, hbase]
  omega

/-- R70, R76: the offset of a sample names it. -/
theorem targetAt?_audioAddr {b : Build} (x : AudioBuf) {k : Nat} (h : k < b.B) :
    targetAt? b (audioAddr x k) = some (.audio x k) := by
  obtain ⟨i, hi, hbase, hpart⟩ := audioBase_eq_part x
  obtain ⟨hlow, hhigh, -⟩ := audioAddr_bounds x h
  have hB := b.B_le
  have hsample : (audioAddr x k - 0x1000) % 0x200 / 4 = k := by rw [audioAddr, hbase]; omega
  have hbuffer : (audioAddr x k - 0x1000) / 0x200 = i := by rw [audioAddr, hbase]; omega
  rw [targetAt?, if_neg (by omega), if_pos hhigh]
  simp only [hsample, hbuffer, hpart, if_pos h]

/-- R70, R77: the offset of a word of an implemented block names it. -/
theorem targetAt?_elmAddr {b : Build} {blk w : Nat} (hblk : blk < b.numBlocks) (hw : w < b.L) :
    targetAt? b (elmAddr blk w) = some (.elm blk w) := by
  have hL := b.L_le
  have hblock : (elmAddr blk w - elmBase) / 0x800 = blk := by simp only [elmAddr]; omega
  have hword : (elmAddr blk w - elmBase) % 0x800 / 4 = w := by simp only [elmAddr]; omega
  have hlow : elmBase ≤ elmAddr blk w := by simp only [elmAddr]; omega
  have hbase : elmBase = 0x100000 := rfl
  rw [targetAt?, if_neg (by omega), if_neg (by omega), if_neg (by omega)]
  simp only [hblock, hword]
  exact if_pos ⟨hblk, hw⟩

/-- R32: no register stands past AUDIO_AVAIL. -/
theorem regAt?_eq_none {a : Nat} (h : 0x038 ≤ a) : regAt? a = none := by
  have hpage : ∀ r ∈ allRegs, regOffset r < 0x038 := by decide
  refine List.find?_eq_none.2 fun r hr => ?_
  have := hpage r hr
  simp only [beq_iff_eq]
  omega

/-- R74: the three unmapped ranges, the last of them without an end (notes/assumptions/10.md). -/
theorem targetAt?_unmapped {b : Build} {a : Nat}
    (h : 0x038 ≤ a ∧ a < 0x1000 ∨ 0x1800 ≤ a ∧ a < elmBase ∨ elmBase + 0x800 * b.numBlocks ≤ a) :
    targetAt? b a = none := by
  have hbase : elmBase = 0x100000 := rfl
  rcases h with ⟨hlow, hhigh⟩ | ⟨hlow, hhigh⟩ | hlow
  · rw [targetAt?, if_pos hhigh, regAt?_eq_none hlow]; rfl
  · rw [targetAt?, if_neg (by omega), if_neg (by omega), if_pos hhigh]
  · have hblk : b.numBlocks ≤ (a - elmBase) / 0x800 := by omega
    rw [targetAt?, if_neg (by omega), if_neg (by omega), if_neg (by omega)]
    exact if_neg fun hmapped => absurd hmapped.1 (by omega)

/-- Settles O12: each mapped offset is the model's address of what it names, and each unmapped one lies in one of the
three ranges. -/
theorem windowMapIsTheSpecs : Obligations.WindowMapIsTheSpecs := fun b =>
  ⟨fun r => ⟨targetAt?_regOffset b r, by cases r <;> decide⟩,
    fun _ hk => ⟨targetAt?_audioAddr .inL hk, targetAt?_audioAddr .inR hk, targetAt?_audioAddr .outL hk,
      targetAt?_audioAddr .outR hk⟩,
    fun _ _ hblk hw => targetAt?_elmAddr hblk hw, fun _ h => targetAt?_unmapped h⟩

/-- What a target names exists in the block. -/
def Target.inBuild (b : Build) : Target → Prop
  | .reg _ => True
  | .audio _ k => k < b.B
  | .elm blk w => blk < b.numBlocks ∧ w < b.L

/-- R70: an offset names only what exists, and a register only below the audio region. -/
theorem inBuild_of_targetAt? {b : Build} {a : Nat} {t : Target} (h : targetAt? b a = some t) :
    t.inBuild b ∧ (0x1000 ≤ a → ∀ r, t ≠ .reg r) := by
  simp only [targetAt?] at h
  split_ifs at h with hreg haudio hk hgap helm
  · obtain ⟨r, -, rfl⟩ := Option.map_eq_some_iff.1 h
    exact ⟨trivial, fun hlow => absurd hlow (by omega)⟩
  · cases h
    exact ⟨hk, fun _ => nofun⟩
  · cases h
    exact ⟨helm, fun _ => nofun⟩

end Sys2Proof.Machine
end

section
/-! PROOFS. Host accesses to the audio buffers and the engine-local memory (R76, R77, R79, R80). -/

namespace Sys2Proof.Machine

/-! ### Reads after the host's writes -/

/-- A word just stored is the word read. -/
theorem readWord_writeWord (m : Memory) (a : Nat) (v : Word) : readWord (writeWord m a v) a = v :=
  readWord_writeWords_inside m a 0 [v] Nat.one_pos

/-- A sample just stored is the sample read. -/
theorem readSample_writeSample (m : Memory) (a : Nat) (x : Sample) : readSample (writeSample m a x) a = x := by
  have hlanes : ∀ j, j < 2 → readByte (writeSample m a x) (a + j) = (sampleBytes x).getD j Memory.unlisted :=
    fun j hj => readByte_writeBytes_inside m a j _ hj
  have hlow := hlanes 0 (by omega)
  rw [Nat.add_zero] at hlow
  rw [readSample, hlow, hlanes 1 (by omega)]
  exact (BitVec.extractLsb'_append_extractLsb'_eq_extractLsb' (by omega)).trans BitVec.extractLsb'_eq_self

/-! ### While BUSY -/

/-- R79: while BUSY every access from the audio region on is refused. -/
theorem accessTarget_busy {s : State} (w : Bool) (size : Nat) {a : Nat} (hbusy : s.busy = true) (ha : 0x1000 ≤ a) :
    accessTarget s w size a = none := by
  refine Option.eq_none_iff_forall_ne_some.2 fun t ht => ?_
  obtain ⟨-, -, hmap, hfree, -⟩ := (accessTarget_eq_some_iff s w size a t).1 ht
  have hnotReg := (inBuild_of_targetAt? hmap).2 ha
  cases t with
  | reg r => exact hnotReg r rfl
  | audio x k => simp [hbusy, busyRefused] at hfree
  | elm b k => simp [hbusy, busyRefused] at hfree

/-- R79: while BUSY a write of a protected register is refused. -/
theorem hostWrite_busyProtected (v : Word) {s : State} {r : Reg} (hbusy : s.busy = true) (hr : busyProtected r = true) :
    hostWrite 4 (regOffset r) v s = respond (.write true) s := by
  refine hostWrite_refused _ _ _ _ (Option.eq_none_iff_forall_ne_some.2 fun t ht => ?_)
  obtain ⟨-, -, hmap, hfree, -⟩ := (accessTarget_eq_some_iff s true 4 _ t).1 ht
  rw [targetAt?_regOffset] at hmap
  cases hmap
  simp [hbusy, busyRefused, hr] at hfree

/-- R222: while BUSY a CMD write only records ERR_BUSY. -/
theorem issue_busy (c : Word) {s : State} (hbusy : s.busy = true) : issue c s = recordCmdError .busy c s := by
  simp [issue, issueError, hbusy]

/-- Settles O13: beyond the registers every access is refused, three registers are protected, and the others act as
usual. -/
theorem busyRefusesDataAndConfiguration : Obligations.BusyRefusesDataAndConfiguration := by
  intro s v a hbusy
  have hopen : ∀ r, busyProtected r = false →
      hostWrite 4 (regOffset r) v s = respond (.write false) (writeReg r v s) := fun r hr =>
    hostWrite_regOffset v (by rw [hr, Bool.and_false])
  refine ⟨fun ha => ⟨?_, ?_⟩, ?_, hostRead_regOffset s, hopen .intStatus rfl, ?_, ?_, fun ro hro => ?_⟩
  · rw [hostRead, accessTarget_busy false 4 hbusy ha]; rfl
  · exact hostWrite_refused 4 a v s (accessTarget_busy true 4 hbusy ha)
  · rintro (rfl | rfl | rfl)
    · exact hostWrite_busyProtected v (r := .ctrl) hbusy rfl
    · exact hostWrite_busyProtected v (r := .gain) hbusy rfl
    · exact hostWrite_busyProtected v (r := .audioAvail) hbusy rfl
  · rw [← BitVec.setWidth_eq_extractLsb' (by omega)]; exact hopen .intEnable rfl
  · exact (hopen .cmd rfl).trans (congrArg _ (issue_busy v hbusy))
  · have hlist : ro ∈ readOnlyRegs.map regOffset := hro
    obtain ⟨r, hr, rfl⟩ := List.mem_map.1 hlist
    exact hostWrite_readOnly v s hr

/-! ### The active bank -/

/-- R49: a bank's blocks come before the delay line's. -/
theorem lt_of_inBank {b : Build} {bank : Bool} {x : Nat} (h : inBank b bank x = true) : x < 4 * b.P := by
  simp only [inBank, Bool.and_eq_true, decide_eq_true_eq] at h
  cases bank <;> simp [bankNumber] at h <;> omega

/-- R48, R49: a bank's blocks are implemented. -/
theorem lt_numBlocks_of_inBank {b : Build} {bank : Bool} {x : Nat} (h : inBank b bank x = true) : x < b.numBlocks := by
  have := lt_of_inBank h
  simp only [Build.numBlocks]
  omega

/-- R80: a write of the active bank is refused, idle or busy. -/
theorem accessTarget_activeBank {s : State} {b w : Nat} (size : Nat) (hbank : inBank s.build s.activeBank b = true)
    (hw : w < s.build.L) : accessTarget s true size (elmAddr b w) = none := by
  refine Option.eq_none_iff_forall_ne_some.2 fun t ht => ?_
  obtain ⟨-, -, hmap, -, hfree⟩ := (accessTarget_eq_some_iff s true size _ t).1 ht
  rw [targetAt?_elmAddr (lt_numBlocks_of_inBank hbank) hw] at hmap
  cases hmap
  simp [bankRefused, hbank] at hfree

/-! ### While idle -/

/-- R77: while idle a word of an implemented block is reached, but for a write of the active bank (R80). -/
theorem accessTarget_elmAddr {s : State} {b w : Nat} (write : Bool) (hidle : s.busy = false)
    (hb : b < s.build.numBlocks) (hw : w < s.build.L) (hbank : (write && inBank s.build s.activeBank b) = false) :
    accessTarget s write 4 (elmAddr b w) = some (.elm b w) :=
  (accessTarget_eq_some_iff s write 4 _ _).2
    ⟨rfl, by simp only [elmAddr, elmBase]; omega, targetAt?_elmAddr hb hw, by rw [hidle, Bool.false_and], hbank⟩

/-- R76: while idle a sample is reached. -/
theorem accessTarget_audioAddr {s : State} {k : Nat} (write : Bool) (x : AudioBuf) (hidle : s.busy = false)
    (hk : k < s.build.B) : accessTarget s write 4 (audioAddr x k) = some (.audio x k) :=
  (accessTarget_eq_some_iff s write 4 _ _).2
    ⟨rfl, (audioAddr_bounds x hk).2.2, targetAt?_audioAddr x hk, by rw [hidle, Bool.false_and], rfl⟩

/-- R77: while idle a read of a word of a block answers the word. -/
theorem hostRead_elmAddr {s : State} {b w : Nat} (hidle : s.busy = false) (hb : b < s.build.numBlocks)
    (hw : w < s.build.L) : hostRead 4 (elmAddr b w) s = respond (.read (elmWord s b w) false) s := by
  rw [hostRead, accessTarget_elmAddr false hidle hb hw (Bool.false_and _)]; rfl

/-- Settles O14: the block is one of the active bank's, which `inBank_iff` lists. -/
theorem activeBankIsWriteProtectedOnTheBus : Obligations.ActiveBankIsWriteProtectedOnTheBus := by
  intro s ch p w v hch hp hw
  have hbank : inBank s.build s.activeBank (tfBlock s.build (bankNumber s.activeBank) ch p) = true :=
    (inBank_iff _ _ _).2 ⟨ch, p, hch, hp, rfl⟩
  exact ⟨hostWrite_refused 4 _ v s (accessTarget_activeBank 4 hbank hw),
    fun hidle => hostRead_elmAddr hidle (lt_numBlocks_of_inBank hbank) hw⟩

/-- Settles O15: the access reaches the word, and a write stores its four bytes. -/
theorem hostMovesElmWordsUnchanged : Obligations.HostMovesElmWordsUnchanged := by
  intro s b w v hidle hb hw
  refine ⟨hostRead_elmAddr hidle hb hw, fun hbank => ?_⟩
  have hwrite := hostWrite_admitted 4 (elmAddr b w) v s _
    (accessTarget_elmAddr true hidle hb hw (by rw [hbank, Bool.and_false]))
  change hostWrite 4 (0x100000 + 0x800 * b + 4 * w) v s = _ at hwrite
  simp only [hwrite]
  exact ⟨rfl, readWord_writeWord s.mem _ v, fun x hx => readByte_writeBytes_outside s.mem _ x (wordBytes v) hx⟩

/-- R76: while idle a read of a sample answers it sign-extended, and a write stores its low half only. -/
theorem hostAccess_sample {s : State} {x : AudioBuf} {k a : Nat} (v : Word) (hidle : s.busy = false)
    (hk : k < s.build.B) (ha : a = audioAddr x k) :
    hostRead 4 a s = respond (.read ((sampleAt s x k).signExtend 32) false) s ∧
      hostWrite 4 a v s
        = respond (.write false) { s with mem := writeSample s.mem (audioAddr x k) (v.extractLsb' 0 16) } := by
  rw [ha, hostWrite_admitted 4 _ v s _ (accessTarget_audioAddr true x hidle hk), hostRead,
    accessTarget_audioAddr false x hidle hk, ← BitVec.setWidth_eq_extractLsb' (by omega)]
  exact ⟨rfl, rfl⟩

/-- Settles O16: the address is the sample's, and a write stores its two bytes. -/
theorem hostMovesSamplesSignExtended : Obligations.HostMovesSamplesSignExtended := by
  intro s x k v hidle hk a
  have ha : a = audioAddr x k := by cases x <;> rfl
  obtain ⟨hread, hwrite⟩ := hostAccess_sample v hidle hk ha
  simp only [hwrite]
  exact ⟨hread, rfl, readSample_writeSample s.mem _ _,
    fun y hy => readByte_writeBytes_outside s.mem _ y (sampleBytes _) (ha ▸ hy)⟩

end Sys2Proof.Machine
end

section
/-! PROOFS. What a step can store, said once (R70, R78, R80, R163, R165). `Writable` names the bytes that anyone may
store outside INIT, and `StoresOnly` says of two memories both that no other byte changed and that no other byte is
newly listed; every host operation and every effect of a command stores only writable bytes. -/

namespace Sys2Proof.Machine

/-! ### Stores that keep to a set of addresses -/

/-- The memory `n` is `m` with bytes stored at addresses of `p` only. -/
structure StoresOnly (p : Nat → Prop) (m n : Memory) : Prop where
  entries : ∀ c ∈ n, c ∈ m ∨ p c.1
  bytes : ∀ x, ¬ p x → readByte n x = readByte m x

theorem StoresOnly.refl (p : Nat → Prop) (m : Memory) : StoresOnly p m m := ⟨fun _ hc => .inl hc, fun _ _ => rfl⟩

theorem StoresOnly.trans {p : Nat → Prop} {m n k : Memory} (hmn : StoresOnly p m n) (hnk : StoresOnly p n k) :
    StoresOnly p m k :=
  ⟨fun c hc => (hnk.entries c hc).elim (hmn.entries c) .inr,
    fun x hx => (hnk.bytes x hx).trans (hmn.bytes x hx)⟩

theorem storesOnly_writeBytes {p : Nat → Prop} {a : Nat} {bs : List Byte} (m : Memory)
    (h : ∀ x, a ≤ x → x < a + bs.length → p x) : StoresOnly p m (writeBytes m a bs) := by
  refine ⟨fun c hc => ?_, fun x hx => readByte_writeBytes_outside m a x bs ?_⟩
  · simp only [writeBytes, List.mem_append, List.mem_filter] at hc
    obtain (⟨hold, -⟩ | hnew) | ⟨hold, -⟩ := hc
    · exact .inl hold
    · obtain ⟨hlow, hhigh, -⟩ := mem_listed hnew
      exact .inr (h _ hlow hhigh)
    · exact .inl hold
  · by_contra hin
    exact hx (h x (by omega) (by omega))

/-! ### The writable bytes -/

/-- R163: an implemented block outside the bank. -/
def FreeBlock (bd : Build) (bank : Bool) (b : Nat) : Prop := b < bd.numBlocks ∧ inBank bd bank b = false

/-- A byte of a sample's word, or of a word of an implemented block outside the bank. -/
def Writable (bd : Build) (bank : Bool) (x : Nat) : Prop :=
  (∃ buf k, k < bd.B ∧ x / 4 * 4 = audioAddr buf k) ∨
    ∃ b w, FreeBlock bd bank b ∧ w < bd.L ∧ x / 4 * 4 = elmAddr b w

/-- R70: a writable byte is storage. -/
theorem storageAt_of_writable {bd : Build} {bank : Bool} {x : Nat} (h : Writable bd bank x) :
    storageAt bd x = true := by
  obtain ⟨buf, k, hk, hx⟩ | ⟨b, w, hfree, hw, hx⟩ := h
  · rw [storageAt, hx, targetAt?_audioAddr buf hk]
  · rw [storageAt, hx, targetAt?_elmAddr hfree.1 hw]

theorem inBlockWords_iff (b n a : Nat) :
    inBlockWords b n a = true ↔ elmAddr b 0 ≤ a ∧ a < elmAddr b 0 + 4 * n := by
  rw [inBlockWords, Bool.and_eq_true, decide_eq_true_eq, decide_eq_true_eq]

/-- R80: no byte of the bank is writable, its words past a small block's end among them. -/
theorem not_writable_of_inBank {bd : Build} {bank : Bool} {b x : Nat} (hb : inBank bd bank b = true)
    (hx : inBlockWords b 512 x = true) : ¬ Writable bd bank x := by
  rw [inBlockWords_iff] at hx
  simp only [elmAddr, elmBase] at hx
  rintro (⟨buf, k, hk, ha⟩ | ⟨c, w, hfree, hw, ha⟩)
  · have := audioAddr_bounds buf hk
    omega
  · have hcb : c ≠ b := by rintro rfl; exact Bool.noConfusion (hb.symm.trans hfree.2)
    have := bd.L_le
    simp only [elmAddr, elmBase] at ha
    omega

/-- R48: the blocks after both banks are outside each of them. -/
theorem freeBlock_of_le {bd : Build} {b : Nat} (bank : Bool) (hlow : 4 * bd.P ≤ b) (hhigh : b < bd.numBlocks) :
    FreeBlock bd bank b :=
  ⟨hhigh, Bool.eq_false_of_not_eq_true fun hb => absurd (lt_of_inBank hb) (by omega)⟩

/-- R48, R51, R52: WIN, ACCL, ACCR and OVL are outside both banks. -/
theorem freeBlock_working (bd : Build) (bank : Bool) :
    FreeBlock bd bank (winBlock bd) ∧ FreeBlock bd bank (acclBlock bd) ∧ FreeBlock bd bank (accrBlock bd) ∧
      FreeBlock bd bank (ovlBlock bd) := by
  have hfree : ∀ j, j < 8 → FreeBlock bd bank (5 * bd.P + j) := fun j hj =>
    freeBlock_of_le bank (by omega) (by simp only [Build.numBlocks]; omega)
  exact ⟨hfree 0 (by omega), hfree 1 (by omega), hfree 2 (by omega), hfree 3 (by omega)⟩

/-- R48, R50: the FDL slots are outside both banks. -/
theorem freeBlock_fdl {bd : Build} {i : Nat} (bank : Bool) (hi : i < bd.P) : FreeBlock bd bank (fdlBlock bd i) :=
  freeBlock_of_le bank (by simp only [fdlBlock]; omega) (by simp only [fdlBlock, Build.numBlocks]; omega)

/-- R107, R163: the destination of a command whose operand checks hold. -/
theorem freeBlock_dest {bd : Build} {bank : Bool} {i : Instr} {d : BlockIdx}
    (h : operandError bd bank i = none) (hd : i.dest? = some d) : FreeBlock bd bank d.toNat := by
  obtain ⟨hwf, hbank⟩ := (operandError_eq_none_iff bd bank i).1 h
  have hmem : d ∈ i.blocks := by cases i <;> cases hd <;> simp [Instr.blocks]
  exact ⟨of_decide_eq_true (List.all_eq_true.1 hwf d hmem), hbank d hd⟩

/-! ### Stores of words, samples, blocks and buffers -/

theorem storesOnly_writeWord {bd : Build} {bank : Bool} {b w : Nat} (m : Memory) (v : Word)
    (hb : FreeBlock bd bank b) (hw : w < bd.L) : StoresOnly (Writable bd bank) m (writeWord m (elmAddr b w) v) :=
  storesOnly_writeBytes m fun x hlow hhigh => .inr ⟨b, w, hb, hw, by
    simp only [elmAddr, elmBase, wordBytes_length] at *; omega⟩

theorem storesOnly_writeSample {bd : Build} {k : Nat} (bank : Bool) (m : Memory) (buf : AudioBuf) (v : Sample)
    (hk : k < bd.B) : StoresOnly (Writable bd bank) m (writeSample m (audioAddr buf k) v) :=
  storesOnly_writeBytes m fun x hlow hhigh => .inl ⟨buf, k, hk, by
    have := audioAddr_bounds buf hk
    have : (sampleBytes v).length = 2 := rfl
    omega⟩

theorem storesOnly_writeBlock {bd : Build} {bank : Bool} {b : Nat} {ws : List Word} (m : Memory)
    (hb : FreeBlock bd bank b) (hlen : ws.length ≤ bd.L) : StoresOnly (Writable bd bank) m (writeBlock m b ws) :=
  storesOnly_writeBytes m fun x hlow hhigh => .inr ⟨b, (x - elmAddr b 0) / 4, hb, by
    rw [wordBytes_flatMap_length] at hhigh; omega, by
    simp only [elmAddr, elmBase] at *; omega⟩

theorem sampleWords_length (xs : List Sample) :
    (xs.flatMap fun x => sampleBytes x ++ [Memory.unlisted, Memory.unlisted]).length = 4 * xs.length := by
  induction xs with
  | nil => rfl
  | cons x xs ih => rw [List.flatMap_cons, List.length_append, ih, List.length_cons, sampleBytes]; simp; omega

theorem storesOnly_writeBuffer {bd : Build} {xs : List Sample} (bank : Bool) (m : Memory) (buf : AudioBuf)
    (hlen : xs.length ≤ bd.B) : StoresOnly (Writable bd bank) m (writeBuffer m buf xs) :=
  storesOnly_writeBytes m fun x hlow hhigh => .inl ⟨buf, (x - audioAddr buf 0) / 4, by
    rw [sampleWords_length] at hhigh; omega, by
    have := audioAddr_bounds buf bd.B_pos
    simp only [audioAddr] at *
    omega⟩

/-! ### The effects of the commands -/

/-- R201: an output stage of at most `B` samples a channel stores only samples. -/
theorem storesOnly_setOutputs {bd : Build} {l r : List Sample} (bank : Bool) (s : State) (hl : l.length ≤ bd.B)
    (hr : r.length ≤ bd.B) : StoresOnly (Writable bd bank) s.mem (setOutputs l r s).mem :=
  (storesOnly_writeBuffer bank _ .outL hl).trans (storesOnly_writeBuffer bank _ .outR hr)

theorem storesOnly_clearSlots {bd : Build} (bank : Bool) (m : Memory) {n : Nat} (hn : n ≤ bd.P) :
    StoresOnly (Writable bd bank) m (clearSlots bd m n) := by
  induction n with
  | zero => exact .refl _ m
  | succ n ih =>
    exact (ih (by omega)).trans
      (storesOnly_writeBlock _ (freeBlock_fdl bank (by omega)) (zeroBlock_length bd).le)

/-- R162, R187: clearing the history stores only FDL and OVL. -/
theorem storesOnly_clearHistory (bd : Build) (bank : Bool) (m : Memory) :
    StoresOnly (Writable bd bank) m (clearHistory bd m) := by
  obtain ⟨-, -, -, hovl⟩ := freeBlock_working bd bank
  exact (storesOnly_clearSlots bank m le_rfl).trans (storesOnly_writeBlock _ hovl (zeroBlock_length bd).le)

/-- R182, R183: a slot number is below `P`. -/
theorem fdlSlot_lt (bd : Build) (cursor : BitVec 8) (i : Nat) : fdlSlot bd cursor i < bd.P := by
  have hP : (0 : Int) < bd.P := by exact_mod_cast bd.P_pos
  have hlow := Int.emod_nonneg ((cursor.toNat : Int) - i) hP.ne'
  have hhigh := Int.emod_lt_of_pos ((cursor.toNat : Int) - i) hP
  rw [fdlSlot]
  omega

@[simp] theorem currentWords_length (bd : Build) (m : Memory) : (currentWords bd m).length = 2 * bd.B := by
  simp [currentWords, readBuffer]

/-- R182 step (a). -/
theorem storesOnly_buildWindow (bd : Build) (bank : Bool) (m : Memory) :
    StoresOnly (Writable bd bank) m (buildWindow bd m) := by
  have hL := bd.L_eq
  obtain ⟨hwin, -⟩ := freeBlock_working bd bank
  exact storesOnly_writeBlock m hwin (by simp [previousWords]; omega)

/-- R182 step (b). -/
theorem storesOnly_saveOverlap (bd : Build) (bank : Bool) (m : Memory) :
    StoresOnly (Writable bd bank) m (saveOverlap bd m) := by
  have hL := bd.L_eq
  obtain ⟨-, -, -, hovl⟩ := freeBlock_working bd bank
  exact storesOnly_writeBlock m hovl (by simp; omega)

/-- R182 step (c). -/
theorem storesOnly_fillSlot (bd : Build) (bank : Bool) (cursor : BitVec 8) (m : Memory) :
    StoresOnly (Writable bd bank) m (fillSlot bd cursor m) := by
  obtain ⟨hwin, -⟩ := freeBlock_working bd bank
  exact (storesOnly_writeBlock m hwin (xform_length bd .fwd _).le).trans
    (storesOnly_writeBlock _ (freeBlock_fdl bank (fdlSlot_lt bd cursor 0)) (readBlock_length bd _ _).le)

/-- R182: steps (a) to (e) store only WIN, OVL, one FDL slot, ACCL and ACCR. -/
theorem storesOnly_olsMemory (bd : Build) (bank : Bool) (cursor : BitVec 8) (k : Nat) (m : Memory) :
    StoresOnly (Writable bd bank) m (olsMemory bd cursor k m) := by
  obtain ⟨-, haccl, haccr, -⟩ := freeBlock_working bd bank
  have hhistory := (storesOnly_buildWindow bd bank m).trans (storesOnly_saveOverlap bd bank _)
  have hslot := hhistory.trans (storesOnly_fillSlot bd bank cursor _)
  exact (hslot.trans (storesOnly_writeBlock _ haccl (xform_length bd .inv _).le)).trans
    (storesOnly_writeBlock _ haccr (xform_length bd .inv _).le)

/-- R182: the emitted samples of a channel are `B` many. -/
theorem emitted_length (bd : Build) (m : Memory) :
    (emittedLeft bd m).length = bd.B ∧ (emittedRight bd m).length = bd.B := by
  have hN := bd.N_eq
  simp only [emittedLeft, emittedRight, List.length_map, List.length_drop, toBins_readBlock_length]
  omega

theorem storesOnly_convolve (bank : Bool) (s : State) : StoresOnly (Writable s.build bank) s.mem (convolve s).mem := by
  obtain ⟨hleft, hright⟩ := emitted_length s.build (olsTick s).mem
  exact (storesOnly_olsMemory s.build bank s.cursor (bankNumber s.activeBank) s.mem).trans
    (storesOnly_setOutputs bank (olsTick s) (by rw [List.length_map]; exact hleft.le)
      (by rw [List.length_map]; exact hright.le))

/-- The three ways of R181. -/
theorem storesOnly_tickEffect (bank : Bool) (s : State) :
    StoresOnly (Writable s.build bank) s.mem (tickEffect s).mem := by
  unfold tickEffect
  split_ifs
  · exact .refl _ s.mem
  · exact storesOnly_setOutputs bank s (by simp [readBuffer]) (by simp [readBuffer])
  · exact storesOnly_convolve bank s

/-- A command that replaces its destination stores only that block. -/
theorem storesOnly_setBlock {i : Instr} {d : BlockIdx} {ws : List Word} {s : State}
    (h : operandError s.build s.activeBank i = none) (hd : i.dest? = some d) (hlen : ws.length ≤ s.build.L) :
    StoresOnly (Writable s.build s.activeBank) s.mem (setBlock d.toNat ws s).mem :=
  storesOnly_writeBlock s.mem (freeBlock_dest h hd) hlen

/-- No effect of a command whose operand checks hold stores a byte that is not writable. -/
theorem storesOnly_commandEffect (i : Instr) {s : State} (h : operandError s.build s.activeBank i = none) :
    StoresOnly (Writable s.build s.activeBank) s.mem (commandEffect i s).mem := by
  cases i with
  | nop => exact .refl _ s.mem
  | clear => exact storesOnly_setBlock h rfl (zeroBlock_length _).le
  | copy => exact storesOnly_setBlock h rfl (readBlock_length _ _ _).le
  | cmac => exact storesOnly_setBlock h rfl (by simp; omega)
  | fft | ifft | part => exact storesOnly_setBlock h rfl (xform_length _ _ _).le
  | tick => exact storesOnly_tickEffect _ s
  | commit | clrstate => exact storesOnly_clearHistory s.build s.activeBank s.mem

/-! ### The engine's and the host's events -/

/-- R59: a command's step stores only writable bytes. -/
theorem storesOnly_exec {i : Instr} {s t : State} (h : exec i s = .next t) :
    t.build = s.build ∧ StoresOnly (Writable s.build s.activeBank) s.mem t.mem := by
  rw [exec_eq_perform] at h
  obtain ⟨hok, rfl⟩ | ⟨e, -, rfl⟩ := perform_cases i _ s t h
  · exact ⟨(effectKeeps_commandEffect i s).build, storesOnly_commandEffect i hok⟩
  · rw [abandon_build, abandon_mem]
    exact ⟨rfl, .refl _ s.mem⟩

/-- A register write changes no memory and no build. -/
theorem writeReg_build_mem (r : Reg) (v : Word) (s : State) :
    (writeReg r v s).build = s.build ∧ (writeReg r v s).mem = s.mem := by
  cases r with
  | cmd =>
    change (issue v s).build = _ ∧ (issue v s).mem = _
    obtain ⟨-, heq⟩ | ⟨e, -, heq⟩ := issue_cases v s <;> simp [heq]
  | intStatus => exact ⟨clearIntStatus_build v s, clearIntStatus_mem v s⟩
  | ctrl | gain | intEnable | audioAvail => exact ⟨rfl, rfl⟩
  | id | param | status | cursor | errCode | errCmd | tickCount | skipCount => exact ⟨rfl, rfl⟩

/-- R70, R80: an admitted write stores only writable bytes. -/
theorem storesOnly_hostWrite (size a : Nat) (v : Word) (s : State) :
    (hostWrite size a v s).build = s.build ∧
      StoresOnly (Writable s.build s.activeBank) s.mem (hostWrite size a v s).mem := by
  cases ht : accessTarget s true size a with
  | none => rw [hostWrite_refused size a v s ht]; exact ⟨rfl, .refl _ s.mem⟩
  | some t =>
    obtain ⟨-, -, hmap, -, hbank⟩ := (accessTarget_eq_some_iff s true size a t).1 ht
    have hexists := (inBuild_of_targetAt? hmap).1
    rw [hostWrite_admitted size a v s t ht, respond_build, respond_mem]
    cases t with
    | reg r =>
      obtain ⟨hbuild, hmem⟩ := writeReg_build_mem r v s
      rw [writeTarget, hbuild, hmem]
      exact ⟨rfl, .refl _ s.mem⟩
    | audio x k => exact ⟨rfl, storesOnly_writeSample _ s.mem x _ hexists⟩
    | elm b w => exact ⟨rfl, storesOnly_writeWord s.mem v ⟨hexists.1, hbank⟩ hexists.2⟩

theorem storesOnly_hostOp (op : HostOp) (s : State) :
    (hostOp op s).build = s.build ∧ StoresOnly (Writable s.build s.activeBank) s.mem (hostOp op s).mem := by
  obtain ⟨size, a, -, heq⟩ | ⟨size, a, v, -, heq⟩ | ⟨-, r, heq⟩ | ⟨-, heq⟩ := hostOp_cases op s
  · obtain ⟨r, hr⟩ := hostRead_eq_respond size a s
    rw [heq, hr]
    exact ⟨rfl, .refl _ s.mem⟩
  · rw [heq]; exact storesOnly_hostWrite size a v s
  · rw [heq]; exact ⟨rfl, .refl _ s.mem⟩
  · rw [heq]; exact ⟨rfl, .refl _ s.mem⟩

theorem storesOnly_hostStep (s : State) :
    (hostStep s).build = s.build ∧ StoresOnly (Writable s.build s.activeBank) s.mem (hostStep s).mem := by
  unfold hostStep
  split
  · exact ⟨rfl, .refl _ s.mem⟩
  · next op rest _ => simpa using storesOnly_hostOp op (countDown { s with host := rest })

/-- Everything that a step can do to the memory: the end of INIT empties it, and any other step stores only writable
bytes. -/
theorem step_storesOnly {s t : State} (h : step s = .next t) :
    (s.init = true ∧ t.mem = []) ∨
      (t.build = s.build ∧ StoresOnly (Writable s.build s.activeBank) s.mem t.mem) := by
  obtain ⟨-, hinit, rfl⟩ | ⟨-, -, c, i, -, -, hexec⟩ | ⟨-, rfl⟩ := step_cases s t h
  · exact .inl ⟨hinit, rfl⟩
  · exact .inr (storesOnly_exec hexec)
  · exact .inr (storesOnly_hostStep s)

/-- Settles O26: a byte listed after a step was listed before it or is writable, so it is storage. -/
theorem everyStepStoresOnlyInMappedStorage : Obligations.EveryStepStoresOnlyInMappedStorage := by
  intro s t hs hstep
  refine List.all_eq_true.2 fun c hc => ?_
  obtain ⟨-, hempty⟩ | ⟨hbuild, hstores⟩ := step_storesOnly hstep
  · simp [hempty] at hc
  · rw [hbuild]
    exact (hstores.entries c hc).elim (List.all_eq_true.1 hs c) storageAt_of_writable

/-- Settles O27: no byte of the active bank is writable. -/
theorem noStepChangesTheActiveBank : Obligations.NoStepChangesTheActiveBank := by
  intro s t ch p a hinit hstep hch hp ha
  have hbank := (inBank_iff s.build s.activeBank _).2 ⟨ch, p, hch, hp, rfl⟩
  obtain ⟨hinInit, -⟩ | ⟨-, hstores⟩ := step_storesOnly hstep
  · exact Bool.noConfusion (hinit.symm.trans hinInit)
  · exact hstores.bytes a (not_writable_of_inBank hbank ha)

end Sys2Proof.Machine
end

section
/-! PROOFS. The host's operations while BUSY (R79, R82, R222, R256, R257). `HostMayChange` says what they may change,
and it chains, so that each part of an operation is one lemma. -/

namespace Sys2Proof.Machine

/-- The only changes from `s` to `t` are to the interrupt registers, the error record and the bus
responses. -/
def HostMayChange (s t : State) : Prop :=
  t = { s with
    intStatus := t.intStatus, intEnable := t.intEnable, errCode := t.errCode, errCmd := t.errCmd,
    responses := t.responses }

theorem HostMayChange.trans {s t u : State} (hst : HostMayChange s t) (htu : HostMayChange t u) :
    HostMayChange s u := by
  unfold HostMayChange at *
  rw [htu, hst]

theorem hostMayChange_respond (r : Response) (s : State) : HostMayChange s (respond r s) := rfl

/-- R223: taking a command error changes no other state. -/
theorem hostMayChange_recordCmdError (e : CmdError) (c : Word) (s : State) :
    HostMayChange s (recordCmdError e c s) := by
  unfold recordCmdError; split <;> rfl

theorem hostMayChange_clearIntStatus (v : Word) (s : State) : HostMayChange s (clearIntStatus v s) := by
  unfold clearIntStatus; simp only []; split <;> rfl

/-- R79, R222: a write of a register that is not protected, while BUSY. -/
theorem hostMayChange_writeReg {r : Reg} (v : Word) {s : State} (hbusy : s.busy = true)
    (hr : busyProtected r = false) : HostMayChange s (writeReg r v s) := by
  cases r with
  | cmd =>
    change HostMayChange s (issue v s)
    rw [issue_busy v hbusy]
    exact hostMayChange_recordCmdError .busy v s
  | intStatus => exact hostMayChange_clearIntStatus v s
  | intEnable => rfl
  | ctrl | gain | audioAvail => exact Bool.noConfusion hr
  | id | param | status | cursor | errCode | errCmd | tickCount | skipCount => rfl

/-- R79: while BUSY a write reaches at most an unprotected register. -/
theorem hostMayChange_hostWrite (size a : Nat) (v : Word) {s : State} (hbusy : s.busy = true) :
    HostMayChange s (hostWrite size a v s) := by
  cases ht : accessTarget s true size a with
  | none => rw [hostWrite_refused size a v s ht]; exact hostMayChange_respond _ s
  | some t =>
    obtain ⟨-, -, -, hfree, -⟩ := (accessTarget_eq_some_iff s true size a t).1 ht
    rw [hbusy, Bool.true_and] at hfree
    rw [hostWrite_admitted size a v s t ht]
    cases t with
    | reg r => exact (hostMayChange_writeReg v hbusy hfree).trans (hostMayChange_respond _ _)
    | audio x k => exact Bool.noConfusion hfree
    | elm b w => exact Bool.noConfusion hfree

/-- The host's operations left after an operation while BUSY: a WAITIDLE stays first (R111). -/
def opsAfter : HostOp → List HostOp → List HostOp
  | .waitIdle, rest => .waitIdle :: rest
  | .read _ _, rest | .write _ _ _, rest | .reset, rest => rest

/-- R82: what a host operation but the reset can do while BUSY. -/
theorem hostMayChange_hostOp {op : HostOp} {s : State} (hbusy : s.busy = true) (hop : op ≠ .reset) :
    HostMayChange { s with host := opsAfter op s.host } (hostOp op s) := by
  obtain ⟨size, a, rfl, heq⟩ | ⟨size, a, v, rfl, heq⟩ | ⟨rfl, r, heq⟩ | ⟨rfl, -⟩ := hostOp_cases op s
  · obtain ⟨r, hr⟩ := hostRead_eq_respond size a s
    rw [heq, hr]
    exact hostMayChange_respond r s
  · rw [heq]
    exact hostMayChange_hostWrite size a v hbusy
  · rw [heq, if_pos hbusy]
    rfl
  · exact absurd rfl hop

/-- R82: what the host's turn can do while BUSY, unless it is a reset; the engine's latency is counted down. -/
theorem hostMayChange_hostStep {s : State} {op : HostOp} {rest : List HostOp} (hbusy : s.busy = true)
    (hhost : s.host = op :: rest) (hop : op ≠ .reset) :
    HostMayChange
      { s with host := opsAfter op rest, wait := if engineWork s then some (remaining s - 1) else s.wait }
      (hostStep s) := by
  have hcount : countDown { s with host := rest }
      = { s with host := rest, wait := if engineWork s then some (remaining s - 1) else s.wait } := by
    unfold countDown
    change (if engineWork s then _ else _) = _
    split <;> rfl
  rw [hostStep, hhost]
  simp only [hcount]
  exact hostMayChange_hostOp hbusy hop

/-- Settles O19: all that changes besides is the host's list and the count. -/
theorem hostSeesNoPartialCommand : Obligations.HostSeesNoPartialCommand := by
  intro s op rest hbusy hhost hop t
  have hmay : HostMayChange _ t := hostMayChange_hostStep hbusy hhost hop
  rw [congrArg State.host hmay, congrArg State.wait hmay]
  exact hmay

end Sys2Proof.Machine
end

section
/-! PROOFS. The latency of a pending command (R59, R86, R226, R262): each host operation counts it down by one and
leaves the command pending, and at 0 the engine performs it. -/

namespace Sys2Proof.Machine

/-- A run of `k + 1` steps goes on from the first step's state. -/
theorem run_succ {s t : State} (k : Nat) (h : step s = .next t) : core.run (k + 1) s = core.run k t := by
  have hcore : core.step s = .next t := h
  simp only [Host.Core.run, hcore]

/-- R55: a sound state's pending command holds the block BUSY outside INIT, and its operand checks hold. -/
theorem pending_of_sound {s : State} {c : Word} (hsound : s.sound = true) (hpending : s.pending = some c) :
    s.init = false ∧ s.busy = true ∧ ∃ i, decode c = .ok i ∧ operandError s.build s.activeBank i = none := by
  obtain ⟨-, -, hcontrol, -⟩ := (sound_iff s).1 hsound
  have hinit : s.init = false := Bool.eq_false_of_not_eq_true fun hi => by
    obtain ⟨-, hnone, -⟩ := hcontrol.inInit hi
    simp [hpending] at hnone
  exact ⟨hinit, by rw [← hcontrol.outsideInit hinit, hpending]; rfl, hcontrol.acceptable c hpending⟩

/-- R226: performing an acceptable command leaves nothing pending, BUSY 0 and DONE 1. -/
theorem exec_of_ok {s : State} {i : Instr} (h : operandError s.build s.activeBank i = none) :
    ∃ t, exec i s = .next t ∧ t.pending = none ∧ t.busy = false ∧ t.intStatus.getLsbD 0 = true := by
  refine ⟨complete (commandEffect i s), (exec_eq_perform i s).trans (perform_of_ok i _ s h), rfl, rfl, ?_⟩
  rw [complete_intStatus, BitVec.getLsbD_or]
  exact Bool.or_true _

/-- R111: no operation puts a reset into the host's list. -/
theorem reset_not_mem_opsAfter {op : HostOp} {rest : List HostOp} (h : HostOp.reset ∉ rest) :
    HostOp.reset ∉ opsAfter op rest := by
  cases op <;> simpa [opsAfter] using h

/-- R262: before its turn, the engine waits for one host operation, which leaves the command pending, and the count
goes down. -/
theorem step_before_engineTurn {s : State} {c : Word} (hsound : s.sound = true) (hpending : s.pending = some c)
    (hreset : HostOp.reset ∉ s.host) (hturn : engineTurn s = false) :
    step s = .next (hostStep s) ∧ (hostStep s).sound = true ∧ (hostStep s).pending = some c ∧
      HostOp.reset ∉ (hostStep s).host ∧ remaining (hostStep s) + 1 = remaining s := by
  obtain ⟨-, hbusy, -⟩ := pending_of_sound hsound hpending
  have hwork : engineWork s = true := by simp [engineWork, hpending]
  obtain ⟨hhost, hleft⟩ : s.host ≠ [] ∧ remaining s ≠ 0 := by simpa [engineTurn, hwork] using hturn
  obtain ⟨op, rest, hops⟩ := List.exists_cons_of_ne_nil hhost
  obtain ⟨hop, hrest⟩ : .reset ≠ op ∧ .reset ∉ rest := by simpa [hops] using hreset
  have hmay := hostMayChange_hostStep hbusy hops hop.symm
  rw [hwork, if_pos rfl] at hmay
  have hwait : (hostStep s).wait = some (remaining s - 1) := congrArg State.wait hmay
  refine ⟨by simp [step, event, hturn], sound_hostStep hsound, (congrArg State.pending hmay).trans hpending, ?_, ?_⟩
  · rw [congrArg State.host hmay]
    exact reset_not_mem_opsAfter hrest
  · rw [remaining, hwait, Option.getD_some]
    omega

/-- R86, R262: with no reset to come, the run reaches the engine's turn with the command still pending, within the
latency left. -/
theorem run_reaches_engineTurn {c : Word} (n : Nat) : ∀ s : State, remaining s = n → s.sound = true →
    s.pending = some c → HostOp.reset ∉ s.host →
    ∃ k u, k ≤ n ∧ core.run k s = .next u ∧ u.sound = true ∧ u.pending = some c ∧ engineTurn u = true := by
  induction n with
  | zero =>
    intro s hleft hsound hpending _
    exact ⟨0, s, le_rfl, rfl, hsound, hpending, by simp [engineTurn, engineWork, hpending, hleft]⟩
  | succ n ih =>
    intro s hleft hsound hpending hreset
    cases hturn : engineTurn s with
    | true => exact ⟨0, s, Nat.zero_le _, rfl, hsound, hpending, hturn⟩
    | false =>
      obtain ⟨hstep, hsound', hpending', hreset', hcount⟩ :=
        step_before_engineTurn hsound hpending hreset hturn
      obtain ⟨k, u, hk, hrun, hu⟩ := ih _ (by omega) hsound' hpending' hreset'
      exact ⟨k + 1, u, by omega, (run_succ k hstep).trans hrun, hu⟩

/-- Settles O29: on the engine's turn the pending command is performed. -/
theorem pendingCommandIsPerformedWithinItsLatency : Obligations.PendingCommandIsPerformedWithinItsLatency := by
  intro s c hsound hpending hreset
  obtain ⟨k, u, hk, hrun, husound, hupending, hturn⟩ := run_reaches_engineTurn _ s rfl hsound hpending hreset
  obtain ⟨hinit, -, i, hdecode, hok⟩ := pending_of_sound husound hupending
  obtain ⟨t, hexec, hdone⟩ := exec_of_ok hok
  exact ⟨k, u, t, i, hk, hrun, hupending, hdecode,
    stepRunsTheDecodedPendingCommand u c i hturn hinit hupending hdecode, hexec, hdone⟩

end Sys2Proof.Machine
end

section
/-! PROOFS. A platform with several blocks (R70, R89). -/

namespace Sys2Proof.Machine

/-- R89: a step of block `k` replaces only block `k`. -/
theorem platformStep_eq_set {k : Nat} {ps qs : List Placed} (h : platformStep k ps = some qs) :
    ∃ p, qs = ps.set k p := by
  unfold platformStep at h
  split at h
  · exact nomatch h
  · split at h
    · exact ⟨_, (Option.some.inj h).symm⟩
    · exact nomatch h
    · exact nomatch h

/-- R70: an address outside a window has no offset in it. -/
theorem windowOffset?_eq_none {base addr : Nat} (h : addr < base ∨ base + windowSize ≤ addr) :
    windowOffset? base addr = none := if_neg (by omega)

/-- A block that an operation does not reach is left as it was. -/
theorem deliver_getElem?_of_unreached {op : PlatformOp} {ps : List Placed} {j : Nat} {p : Placed}
    (hj : ps[j]? = some p) (h : opFor? p.base op = none) : (deliver op ps)[j]? = some p := by
  rw [deliver, List.getElem?_map, hj, Option.map_some, h]

/-- Settles O59: a step replaces its own block, and an access outside a block's window does not reach it. -/
theorem instancesAreIndependent : Obligations.InstancesAreIndependent := by
  refine ⟨fun k j ps qs hstep hjk => ?_, fun ps size addr j v p hj haddr => ?_⟩
  · obtain ⟨p, rfl⟩ := platformStep_eq_set hstep
    exact List.getElem?_set_ne hjk.symm
  · have houtside : windowOffset? p.base addr = none := windowOffset?_eq_none haddr
    exact ⟨deliver_getElem?_of_unreached hj (by rw [opFor?, houtside]; rfl),
      deliver_getElem?_of_unreached hj (by rw [opFor?, houtside]; rfl)⟩

end Sys2Proof.Machine
end

section
/-! PROOFS. The encoding (R101 to R106): a word is its four fields, a row of the match and mask table is a condition on
those fields, and so decoding and encoding are inverse. -/

namespace Sys2Proof

/-- R101: a word is its four fields. -/
theorem commandWord_fields (c : Word) : commandWord (c.extractLsb' 27 5) (fieldC c) (fieldB c) (fieldA c) = c := by
  have hC : c.extractLsb' 27 5 ++ c.extractLsb' 18 9 = c.extractLsb' 18 14 :=
    BitVec.extractLsb'_append_extractLsb'_eq_extractLsb' rfl
  have hB : c.extractLsb' 18 14 ++ c.extractLsb' 9 9 = c.extractLsb' 9 23 :=
    BitVec.extractLsb'_append_extractLsb'_eq_extractLsb' rfl
  have hA : c.extractLsb' 9 23 ++ c.extractLsb' 0 9 = c.extractLsb' 0 32 :=
    BitVec.extractLsb'_append_extractLsb'_eq_extractLsb' rfl
  rw [commandWord, fieldC, fieldB, fieldA, hC, hB, hA, BitVec.extractLsb'_eq_self]

/-- R101: words of equal fields only are equal. -/
theorem commandWord_inj {op op' : BitVec 5} {c c' bf bf' a a' : BlockIdx}
    (h : commandWord op c bf a = commandWord op' c' bf' a') : op = op' ∧ c = c' ∧ bf = bf' ∧ a = a' := by
  obtain ⟨hop, hc, hb, ha⟩ := Laws.fields_commandWord op c bf a
  obtain ⟨hop', hc', hb', ha'⟩ := Laws.fields_commandWord op' c' bf' a'
  rw [h] at hop hc hb ha
  exact ⟨BitVec.eq_of_toNat_eq (hop.symm.trans hop'), hc.symm.trans hc', hb.symm.trans hb', ha.symm.trans ha'⟩

/-- R104: what matching a row says of the fields: the opcode is the row's, and each field is 0 where the mask covers
it. -/
theorem fields_of_matches {c : Word} (op : BitVec 5) (mc mb ma : BlockIdx)
    (h : c &&& commandWord 0x1F mc mb ma = commandWord op 0 0 0) :
    commandWord op (fieldC c) (fieldB c) (fieldA c) = c ∧
      fieldC c &&& mc = 0 ∧ fieldB c &&& mb = 0 ∧ fieldA c &&& ma = 0 := by
  have hmasked : commandWord (c.extractLsb' 27 5 &&& 0x1F) (fieldC c &&& mc) (fieldB c &&& mb) (fieldA c &&& ma)
      = commandWord op 0 0 0 := by
    rw [← Laws.commandWord_and, commandWord_fields, h]
  obtain ⟨hop, hfields⟩ := commandWord_inj hmasked
  have hfull : c.extractLsb' 27 5 &&& 0x1F = c.extractLsb' 27 5 := BitVec.and_allOnes
  exact ⟨by rw [← hop, hfull, commandWord_fields], hfields⟩

/-- R104, R106: a field that the mask covers is 0 in a word that matches. -/
theorem eq_zero_of_covered {x : BlockIdx} (h : x &&& 0x1FF = 0) : x = 0 := BitVec.and_allOnes.symm.trans h

/-- R104: a word that matches a row without operands is the row's word. -/
theorem commandWord_of_matches_noOperand {c : Word} (op : BitVec 5) (h : c &&& 0xFFFFFFFF = commandWord op 0 0 0) :
    commandWord op 0 0 0 = c :=
  h.symm.trans BitVec.and_allOnes

/-- R104: a word that matches a row with operand A only. -/
theorem commandWord_of_matches_oneOperand {c : Word} (op : BitVec 5) (h : c &&& 0xFFFFFE00 = commandWord op 0 0 0) :
    commandWord op 0 0 (fieldA c) = c := by
  obtain ⟨hword, hC, hB, -⟩ := fields_of_matches op 0x1FF 0x1FF 0 h
  rwa [eq_zero_of_covered hC, eq_zero_of_covered hB] at hword

/-- R104: a word that matches a row with operands A and Bf. -/
theorem commandWord_of_matches_twoOperands {c : Word} (op : BitVec 5) (h : c &&& 0xFFFC0000 = commandWord op 0 0 0) :
    commandWord op 0 (fieldB c) (fieldA c) = c := by
  obtain ⟨hword, hC, -⟩ := fields_of_matches op 0x1FF 0 0 h
  rwa [eq_zero_of_covered hC] at hword

/-- R104: a word that matches a row with all three operands. -/
theorem commandWord_of_matches_threeOperands {c : Word} (op : BitVec 5) (h : c &&& 0xF8000000 = commandWord op 0 0 0) :
    commandWord op (fieldC c) (fieldB c) (fieldA c) = c :=
  (fields_of_matches op 0 0 0 h).1

/-- R103, R104: a word that matches the row of its opcode is the encoding of the command it names, so no bit of it is
dropped. -/
theorem encode_of_operation {c : Word} {i : Instr} {row : OpRow} : ∀ {op : Nat}, operation op c = some i →
    opTable[op]? = some row → c &&& row.mask = row.matchWord → encode i = c
  | 0x00, rfl, rfl, h => commandWord_of_matches_noOperand 0x00 h
  | 0x01, rfl, rfl, h => commandWord_of_matches_oneOperand 0x01 h
  | 0x02, rfl, rfl, h => commandWord_of_matches_twoOperands 0x02 h
  | 0x03, rfl, rfl, h => commandWord_of_matches_threeOperands 0x03 h
  | 0x04, rfl, rfl, h => commandWord_of_matches_oneOperand 0x04 h
  | 0x05, rfl, rfl, h => commandWord_of_matches_oneOperand 0x05 h
  | 0x06, rfl, rfl, h => commandWord_of_matches_twoOperands 0x06 h
  | 0x07, rfl, rfl, h => commandWord_of_matches_noOperand 0x07 h
  | 0x08, rfl, rfl, h => commandWord_of_matches_noOperand 0x08 h
  | 0x09, rfl, rfl, h => commandWord_of_matches_noOperand 0x09 h

/-- R103: the opcode and the operand fields of an encoding name the command again. -/
theorem operation_encode (i : Instr) : operation (fieldOp (encode i)) (encode i) = some i := by
  cases i <;> simp only [encode, Laws.fields_commandWord] <;> simp [operation, Laws.fields_commandWord]

/-- R103, R104: every encoding matches the row of its opcode. -/
theorem encode_matches (i : Instr) :
    ∃ row, opTable[fieldOp (encode i)]? = some row ∧ encode i &&& row.mask = row.matchWord := by
  cases i with
  | nop => exact Laws.EncodingFitsRow.nop
  | clear dst => exact Laws.EncodingFitsRow.clear dst
  | copy dst src => exact Laws.EncodingFitsRow.copy dst src
  | cmac acc a b => exact Laws.EncodingFitsRow.cmac acc a b
  | fft blk => exact Laws.EncodingFitsRow.fft blk
  | ifft blk => exact Laws.EncodingFitsRow.ifft blk
  | part dst src => exact Laws.EncodingFitsRow.part dst src
  | tick => exact Laws.EncodingFitsRow.tick
  | commit => exact Laws.EncodingFitsRow.commit
  | clrstate => exact Laws.EncodingFitsRow.clrstate

/-- R105: an opcode with a row of the table is one that names a command. -/
theorem exists_operation {op : Nat} {row : OpRow} (h : opTable[op]? = some row) (c : Word) :
    ∃ i, operation op c = some i := by
  obtain ⟨hlt, -⟩ := List.getElem?_eq_some_iff.1 h
  have hlt : op < 10 := hlt
  interval_cases op <;> exact ⟨_, rfl⟩

/-- Everything decoding a word can answer (R104 to R106). -/
theorem decode_cases (c : Word) :
    (opTable[fieldOp c]? = none ∧ decode c = .error .illegalOpcode) ∨
      ∃ row, opTable[fieldOp c]? = some row ∧
        ((c &&& row.mask = row.matchWord ∧ ∃ i, decode c = .ok i ∧ encode i = c) ∨
          (c &&& row.mask ≠ row.matchWord ∧ decode c = .error .reservedField)) := by
  cases hrow : opTable[fieldOp c]? with
  | none => exact .inl ⟨rfl, by rw [decode, hrow]; cases operation (fieldOp c) c <;> rfl⟩
  | some row =>
    obtain ⟨i, hi⟩ := exists_operation hrow c
    refine .inr ⟨row, rfl, ?_⟩
    by_cases hm : c &&& row.mask = row.matchWord
    · exact .inl ⟨hm, i, by simp [decode, hi, hrow, hm], encode_of_operation hi hrow hm⟩
    · exact .inr ⟨hm, by simp [decode, hi, hrow, hm]⟩

/-- R103: decoding an encoding gives the command back. -/
theorem decode_encode (i : Instr) : decode (encode i) = .ok i := by
  obtain ⟨row, hrow, hm⟩ := encode_matches i
  simp [decode, operation_encode, hrow, hm]

/-- Settles O1: a word that decodes matches its row, and so is the encoding. -/
theorem decodeAndEncodeAgree : Obligations.DecodeAndEncodeAgree := by
  refine fun c i => ⟨fun h => ?_, fun h => h ▸ decode_encode i⟩
  obtain ⟨-, hd⟩ | ⟨row, -, ⟨-, j, hd, hj⟩ | ⟨-, hd⟩⟩ := decode_cases c
  · exact nomatch h.symm.trans hd
  · cases h.symm.trans hd
    exact hj
  · exact nomatch h.symm.trans hd

/-- R101, R104: row `n` of the table carries opcode `n`, and its mask covers the opcode field. -/
theorem opTable_opcode {n : Nat} {row : OpRow} (h : opTable[n]? = some row) :
    fieldOp row.matchWord = n ∧ row.mask.extractLsb' 27 5 = BitVec.allOnes 5 := by
  have hrows : ∀ j : Fin opTable.length,
      fieldOp opTable[j].matchWord = j ∧ opTable[j].mask.extractLsb' 27 5 = BitVec.allOnes 5 := by decide
  obtain ⟨hlt, rfl⟩ := List.getElem?_eq_some_iff.1 h
  exact hrows ⟨n, hlt⟩

/-- R104: a word that matches a row has the row's opcode. -/
theorem fieldOp_of_matches {c : Word} {n : Nat} {row : OpRow} (hrow : opTable[n]? = some row)
    (hm : c &&& row.mask = row.matchWord) : fieldOp c = n := by
  obtain ⟨hop, hmask⟩ := opTable_opcode hrow
  rw [← hop, ← hm, fieldOp, fieldOp, BitVec.extractLsb'_and, hmask, BitVec.and_allOnes]

/-- R104: a word matches a row exactly when it is the row's command. -/
theorem matches_iff_decode {c : Word} {n : Nat} {row : OpRow} (hrow : opTable[n]? = some row) :
    c &&& row.mask = row.matchWord ↔ ∃ i, decode c = .ok i ∧ fieldOp (encode i) = n := by
  constructor
  · intro hm
    have hop := fieldOp_of_matches hrow hm
    rw [← hop] at hrow
    obtain ⟨i, hi⟩ := exists_operation hrow c
    exact ⟨i, by simp [decode, hi, hrow, hm], by rw [encode_of_operation hi hrow hm, hop]⟩
  · rintro ⟨i, hd, hop⟩
    obtain ⟨row', hrow', hm⟩ := encode_matches i
    rw [hop, hrow] at hrow'
    rw [← (decodeAndEncodeAgree c i).1 hd, Option.some.inj hrow']
    exact hm

/-- R106: a word is rejected by its reserved fields exactly when its opcode has a row and it matches none. -/
theorem decode_eq_reservedField_iff (c : Word) :
    decode c = .error .reservedField ↔
      fieldOp c < opTable.length ∧ ∀ (n : Nat) (row : OpRow), opTable[n]? = some row → c &&& row.mask ≠ row.matchWord := by
  obtain ⟨hnone, hd⟩ | ⟨row, hrow, ⟨hm, i, hd, -⟩ | ⟨hm, hd⟩⟩ := decode_cases c
  · have hlen := List.getElem?_eq_none_iff.1 hnone
    simp [hd]
    omega
  · simp only [hd, reduceCtorEq, false_iff, not_and]
    exact fun _ hall => hall _ row hrow hm
  · simp only [hd, true_iff]
    refine ⟨(List.getElem?_eq_some_iff.1 hrow).1, fun n row' hrow' hm' => hm ?_⟩
    rw [← fieldOp_of_matches hrow' hm', hrow] at hrow'
    rwa [Option.some.inj hrow']

/-- The rows of the table, each with its opcode. -/
def opRows : List (Nat × Word × Word) := opTable.zipIdx.map fun (row, n) => (n, row.matchWord, row.mask)

theorem mem_opRows_iff {n : Nat} {m k : Word} :
    (n, m, k) ∈ opRows ↔ ∃ row, opTable[n]? = some row ∧ row.matchWord = m ∧ row.mask = k := by
  simp [opRows, List.mem_zipIdx_iff_getElem?, and_comm]

/-- Settles O2: the rows are the table's. -/
theorem wordIsACommandExactlyWhenItMatchesItsRow : Obligations.WordIsACommandExactlyWhenItMatchesItsRow := by
  intro c
  refine ⟨fun op m k hmem => ?_, (decode_eq_reservedField_iff c).trans (and_congr Nat.lt_succ_iff ?_)⟩
  · obtain ⟨row, hrow, rfl, rfl⟩ := mem_opRows_iff.1 hmem
    exact matches_iff_decode hrow
  · refine ⟨fun hall n m k hmem => ?_, fun hall n row hrow => ?_⟩
    · obtain ⟨row, hrow, rfl, rfl⟩ := mem_opRows_iff.1 hmem
      exact hall n row hrow
    · exact hall n _ _ (mem_opRows_iff.2 ⟨row, hrow, rfl, rfl⟩)

/-- Settles O3: each word is evaluated. -/
theorem exampleWordsDecodeAsTheSpecWritesThem : Obligations.ExampleWordsDecodeAsTheSpecWritesThem := by
  unfold Obligations.ExampleWordsDecodeAsTheSpecWritesThem
  decide

end Sys2Proof
end

section
/-! PROOFS. A command whose operands fail the checks of R222, performed all the same (notes/assumptions/4.md). -/

namespace Sys2Proof

/-- R107: a command is well formed when every block it names is below `NBLK`. -/
theorem Instr.wellFormed_iff (b : Build) (i : Instr) :
    i.wellFormed b = true ↔ ∀ x ∈ i.blocks, x.toNat < b.numBlocks := by
  simp [Instr.wellFormed, BlockIdx.implemented]

end Sys2Proof

namespace Sys2Proof.Machine

/-- Settles O47: the operand checks of R222 give the error, and the command is abandoned. -/
theorem commandWithBadOperandsIsRejected : Obligations.CommandWithBadOperandsIsRejected := by
  intro s i e hbad
  rw [exec_eq_perform]
  refine perform_of_error i _ s e ?_
  obtain ⟨rfl, x, hx, hle⟩ | ⟨rfl, hok, d, hdest, hbank⟩ := hbad
  · have hw : ¬ i.wellFormed s.build = true := fun hw => absurd ((Instr.wellFormed_iff _ i).1 hw x hx) (by omega)
    simp [operandError, hw]
  · have hw := (Instr.wellFormed_iff _ i).2 hok
    simp [operandError, hw, hdest, hbank]

end Sys2Proof.Machine
end

section
/-! PROOFS. The numbers the assembler reads (R109): a block index written in decimal reads back as that index. -/

namespace Sys2Proof.Machine

/-- R109: a decimal digit stands for its distance from `0`. -/
theorem digitValue_of_isDigit {c : Char} (h : c.isDigit = true) : digitValue c = some (c.toNat - '0'.toNat) := by
  have hrange : '0' ≤ c ∧ c ≤ '9' := by simpa [Char.isDigit, Char.le_def] using h
  exact if_pos hrange

/-- R109: decimal digits read from a value on. -/
theorem digitsFrom_ten {cs : List Char} (h : ∀ c ∈ cs, c.isDigit = true) (acc : Nat) :
    digitsFrom 10 acc cs = some (Nat.ofDigitChars 10 cs acc) := by
  induction cs generalizing acc with
  | nil => rfl
  | cons c cs ih =>
    obtain ⟨hc, hcs⟩ := List.forall_mem_cons.1 h
    have hlt : c.toNat - '0'.toNat < 10 := Nat.sub_lt_left_of_lt_add (Char.isDigit_iff_toNat.1 hc).1
      (Nat.lt_succ_of_le (Char.isDigit_iff_toNat.1 hc).2)
    simp only [digitsFrom, digitValue_of_isDigit hc, if_pos hlt, ih hcs, Nat.ofDigitChars_cons, mul_comm]

/-- R109: digits alone are read as decimal. -/
theorem number?_of_isDigit {cs : List Char} (hne : cs ≠ []) (h : ∀ c ∈ cs, c.isDigit = true) :
    number? cs = some (Nat.ofDigitChars 10 cs 0) := by
  unfold number?
  split
  · exact absurd rfl hne
  · exact absurd (h 'x' (by simp)) (by decide)
  · exact digitsFrom_ten h 0

/-- A block index in decimal, as `operandText` writes it. -/
def decimal (x : BlockIdx) : List Char := Nat.toDigits 10 x.toNat

theorem decimal_ne_nil (x : BlockIdx) : decimal x ≠ [] := Nat.toDigits_ne_nil

theorem isDigit_of_mem_decimal {x : BlockIdx} {c : Char} (h : c ∈ decimal x) : c.isDigit = true :=
  Nat.isDigit_of_mem_toDigits (by omega) le_rfl h

/-- R109: a block index in decimal names that block. -/
theorem blockOperand_decimal (b : Build) (x : BlockIdx) : blockOperand b (decimal x) = .ok x := by
  have hnumber : number? (decimal x) = some x.toNat :=
    (number?_of_isDigit (decimal_ne_nil x) fun _ => isDigit_of_mem_decimal).trans
      (congrArg some Nat.ofDigitChars_ten_toDigits)
  simp [blockOperand, operandIndex, hnumber, x.isLt]

/-- R103, R109: the mnemonic of a command with its operands in decimal is that command. -/
theorem commandLine_decimal (b : Build) (i : Instr) :
    commandLine b (mnemonicText i) (i.blocks.map decimal) = some (.ok i) := by
  cases i with
  | nop | tick | commit | clrstate => rfl
  | clear | copy | cmac | fft | ifft | part =>
    simp [commandLine, mnemonicText, Instr.blocks, blockOperand_decimal, bind, Except.bind, pure, Except.pure]

end Sys2Proof.Machine
end

section
/-! PROOFS. The words of a line (notes/assumptions/15.md): what white space drops, what a comma separates, and the line
of a command read back word by word. -/

namespace Sys2Proof.Machine

/-- White space is dropped from the left, then from the right. -/
theorem trimChars_eq (cs : List Char) : trimChars cs = (cs.dropWhile isBlank).rdropWhile isBlank := rfl

/-- A text with no white space at its ends is kept. -/
theorem trimChars_eq_self {cs : List Char} (hhead : ∀ c ∈ cs.head?, isBlank c = false)
    (hlast : ∀ c ∈ cs.getLast?, isBlank c = false) : trimChars cs = cs := by
  have hleft : cs.dropWhile isBlank = cs := List.dropWhile_eq_self_iff.2 fun hl => by
    simp [hhead _ (List.head?_eq_getElem? ▸ List.getElem?_eq_getElem hl)]
  rw [trimChars_eq, hleft, List.rdropWhile_eq_self_iff]
  exact fun hne => by simp [hlast _ (List.getLast?_eq_getLast_of_ne_nil hne)]

/-- A word without white space is kept. -/
theorem trimChars_of_no_blank {cs : List Char} (h : ∀ c ∈ cs, isBlank c = false) : trimChars cs = cs :=
  trimChars_eq_self (fun c hc => h c (List.mem_of_head? hc)) fun c hc => h c (List.mem_of_getLast? hc)

/-- A blank before a text is dropped. -/
theorem trimChars_blank_cons (cs : List Char) : trimChars (' ' :: cs) = trimChars cs := rfl

/-- A blank after a text is dropped. -/
theorem trimChars_append_blank (cs : List Char) : trimChars (cs ++ [' ']) = trimChars cs := by
  rw [trimChars_eq, trimChars_eq, List.dropWhile_append]
  split
  · next hempty =>
    rw [List.isEmpty_iff.1 hempty]
    rfl
  · exact List.rdropWhile_concat_pos _ _ _ rfl

/-- A text without the separator is one part. -/
theorem splitAtChar_of_not_mem {sep : Char} {cs : List Char} (h : sep ∉ cs) : splitAtChar sep cs = [cs] := by
  induction cs with
  | nil => rfl
  | cons c cs ih =>
    obtain ⟨hc, hcs⟩ := not_or.1 fun hor => h (List.mem_cons.2 hor)
    simp [splitAtChar, Ne.symm hc, ih hcs]

/-- The first part of a text ends at its first separator. -/
theorem splitAtChar_append {sep : Char} {cs : List Char} (rest : List Char) (h : sep ∉ cs) :
    splitAtChar sep (cs ++ sep :: rest) = cs :: splitAtChar sep rest := by
  induction cs with
  | nil => simp [splitAtChar]
  | cons c cs ih =>
    obtain ⟨hc, hcs⟩ := not_or.1 fun hor => h (List.mem_cons.2 hor)
    simp [splitAtChar, Ne.symm hc, ih hcs]

/-- A text always has a first part. -/
theorem splitAtChar_ne_nil (sep : Char) (cs : List Char) : splitAtChar sep cs ≠ [] := by
  cases cs with
  | nil => simp [splitAtChar]
  | cons c cs =>
    rw [splitAtChar]
    split
    · simp
    · split <;> simp

/-- A blank before a list of operands makes no difference. -/
theorem map_trimChars_splitAtChar_blank (cs : List Char) :
    (splitAtChar ',' (' ' :: cs)).map trimChars = (splitAtChar ',' cs).map trimChars := by
  obtain ⟨word, more, hsplit⟩ := List.exists_cons_of_ne_nil (splitAtChar_ne_nil ',' cs)
  simp [splitAtChar, hsplit, trimChars_blank_cons]

theorem ne_of_isDigit {c d : Char} (hc : c.isDigit = true) (hd : d.isDigit = false) : c ≠ d := by
  rintro rfl
  exact Bool.noConfusion (hc.symm.trans hd)

/-- A digit is no white space. -/
theorem isBlank_of_isDigit {c : Char} (h : c.isDigit = true) : isBlank c = false := by
  simp [isBlank, ne_of_isDigit h (d := ' ') rfl, ne_of_isDigit h (d := '\t') rfl]

theorem operandText_singleton (x : BlockIdx) : operandText [x] = decimal x := rfl

theorem operandText_cons_cons (x y : BlockIdx) (bs : List BlockIdx) :
    operandText (x :: y :: bs) = decimal x ++ ',' :: ' ' :: operandText (y :: bs) := by
  simp [operandText, decimal]

theorem operandText_ne_nil {bs : List BlockIdx} (h : bs ≠ []) : operandText bs ≠ [] := by
  induction bs using operandText.induct with
  | case1 => exact absurd rfl h
  | case2 x => exact decimal_ne_nil x
  | case3 x y bs => simp [operandText_cons_cons]

/-- R109: the characters of an operand list. -/
theorem mem_operandText {bs : List BlockIdx} {c : Char} (h : c ∈ operandText bs) :
    c.isDigit = true ∨ c = ',' ∨ c = ' ' := by
  induction bs using operandText.induct with
  | case1 => simp [operandText] at h
  | case2 x => exact .inl (isDigit_of_mem_decimal h)
  | case3 x y bs ih =>
    rw [operandText_cons_cons, List.mem_append, List.mem_cons, List.mem_cons] at h
    obtain hx | hcomma | hblank | hrest := h
    · exact .inl (isDigit_of_mem_decimal hx)
    · exact .inr (.inl hcomma)
    · exact .inr (.inr hblank)
    · exact ih hrest

/-- R109: an operand list begins with a digit. -/
theorem isDigit_of_head?_operandText {bs : List BlockIdx} {c : Char} (h : c ∈ (operandText bs).head?) :
    c.isDigit = true := by
  induction bs using operandText.induct with
  | case1 => simp [operandText] at h
  | case2 x => exact isDigit_of_mem_decimal (List.mem_of_head? h)
  | case3 x y bs =>
    rw [operandText_cons_cons, List.head?_append_of_ne_nil _ (decimal_ne_nil x)] at h
    exact isDigit_of_mem_decimal (List.mem_of_head? h)

/-- R109: an operand list ends with a digit. -/
theorem isDigit_of_getLast?_operandText {bs : List BlockIdx} {c : Char} (h : c ∈ (operandText bs).getLast?) :
    c.isDigit = true := by
  induction bs using operandText.induct with
  | case1 => simp [operandText] at h
  | case2 x => exact isDigit_of_mem_decimal (List.mem_of_getLast? h)
  | case3 x y bs ih =>
    rw [operandText_cons_cons, List.append_cons, List.append_cons,
      List.getLast?_append_of_ne_nil _ (operandText_ne_nil (List.cons_ne_nil y bs))] at h
    exact ih h

/-- R109: the operands of a list, each with the white space around it dropped. -/
theorem splitAtChar_operandText {bs : List BlockIdx} (hne : bs ≠ []) :
    (splitAtChar ',' (operandText bs)).map trimChars = bs.map decimal := by
  have hcomma (x : BlockIdx) : ',' ∉ decimal x := fun h => ne_of_isDigit (isDigit_of_mem_decimal h) rfl rfl
  have htrim (x : BlockIdx) : trimChars (decimal x) = decimal x :=
    trimChars_of_no_blank fun _ hc => isBlank_of_isDigit (isDigit_of_mem_decimal hc)
  induction bs using operandText.induct with
  | case1 => exact absurd rfl hne
  | case2 x => simp [operandText_singleton, splitAtChar_of_not_mem (hcomma x), htrim]
  | case3 x y bs ih =>
    rw [operandText_cons_cons, splitAtChar_append _ (hcomma x), List.map_cons, map_trimChars_splitAtChar_blank,
      ih (List.cons_ne_nil y bs), htrim]
    rfl

/-- The operands that a line's text has after its mnemonic. -/
def lineOperands (rest : List Char) : List (List Char) :=
  if (trimChars rest).isEmpty then [] else (splitAtChar ',' (trimChars rest)).map trimChars

/-- R109: a line whose text is a mnemonic and what follows it is the command that these name. -/
theorem assembleLine_of_commandLine {b : Build} {line mn rest : List Char} {i : Instr}
    (htext : trimChars (line.takeWhile (· ≠ ';')) = mn ++ rest) (hne : mn ≠ [])
    (hmn : ∀ c ∈ mn, isBlank c = false) (hrest : ∀ c ∈ rest.head?, isBlank c = true)
    (hcmd : commandLine b mn (lineOperands rest) = some (.ok i)) :
    assembleLine b line = .ok (some (.command (encode i))) := by
  have hword : ∀ c ∈ mn, (!isBlank c) = true := by simpa using hmn
  have htake : (mn ++ rest).takeWhile (fun c => !isBlank c) = mn := by
    rw [List.takeWhile_append_of_pos hword]
    cases rest with
    | nil => simp
    | cons c rest => simp [hrest c rfl]
  have hdrop : (mn ++ rest).dropWhile (fun c => !isBlank c) = rest := by
    rw [List.dropWhile_append_of_pos hword]
    cases rest with
    | nil => rfl
    | cons c rest => simp [hrest c rfl]
  have hsome : (mn ++ rest).isEmpty = false := by simp [hne]
  simp only [lineOperands] at hcmd
  simp only [assembleLine, htext, hsome, htake, hdrop, hcmd]
  rfl

/-- R103: a mnemonic is one word. -/
theorem mem_mnemonicText {i : Instr} {c : Char} (h : c ∈ mnemonicText i) : isBlank c = false ∧ c ≠ ';' := by
  have hall : ∀ c ∈ mnemonicText i, isBlank c = false ∧ c ≠ ';' := by
    cases i <;> simp [mnemonicText, isBlank]
  exact hall c h

theorem mnemonicText_ne_nil (i : Instr) : mnemonicText i ≠ [] := by cases i <;> exact List.cons_ne_nil _ _

/-- R109: an operand list is kept. -/
theorem trimChars_operandText (bs : List BlockIdx) : trimChars (operandText bs) = operandText bs :=
  trimChars_eq_self (fun _ hc => isBlank_of_isDigit (isDigit_of_head?_operandText hc)) fun _ hc =>
    isBlank_of_isDigit (isDigit_of_getLast?_operandText hc)

/-- R109: the operands that follow a command's mnemonic in its line. -/
theorem lineOperands_operandText (bs : List BlockIdx) : lineOperands (' ' :: operandText bs) = bs.map decimal := by
  rw [lineOperands, trimChars_blank_cons, trimChars_operandText]
  by_cases hbs : bs = []
  · subst hbs
    rfl
  · rw [List.isEmpty_eq_false_iff.2 (operandText_ne_nil hbs)]
    exact splitAtChar_operandText hbs

/-- R109: the line of a command holds no comment. -/
theorem takeWhile_commandText (i : Instr) : (commandText i).takeWhile (· ≠ ';') = commandText i := by
  refine List.takeWhile_eq_self_iff.2 fun c hc => decide_eq_true ?_
  rw [commandText, List.append_assoc, List.mem_append, List.singleton_append, List.mem_cons] at hc
  obtain hmn | rfl | hops := hc
  · exact (mem_mnemonicText hmn).2
  · decide
  · obtain hdigit | rfl | rfl := mem_operandText hops
    · exact ne_of_isDigit hdigit rfl
    · decide
    · decide

/-- R109: the line of a command with operands has no white space at its ends. -/
theorem trimChars_commandText {i : Instr} (h : i.blocks ≠ []) : trimChars (commandText i) = commandText i := by
  refine trimChars_eq_self (fun c hc => ?_) fun c hc => ?_
  · rw [commandText, List.append_assoc, List.head?_append_of_ne_nil _ (mnemonicText_ne_nil i)] at hc
    exact (mem_mnemonicText (List.mem_of_head? hc)).1
  · rw [commandText, List.getLast?_append_of_ne_nil _ (operandText_ne_nil h)] at hc
    exact isBlank_of_isDigit (isDigit_of_getLast?_operandText hc)

/-- R109: the bare mnemonic of a command without operands, with or without white space after it. -/
theorem assembleLine_bareMnemonic (b : Build) {i : Instr} {line : List Char} (h : i.blocks = [])
    (htext : trimChars (line.takeWhile (· ≠ ';')) = mnemonicText i) :
    assembleLine b line = .ok (some (.command (encode i))) := by
  refine assembleLine_of_commandLine (rest := []) (by rw [htext, List.append_nil]) (mnemonicText_ne_nil i)
    (fun c hc => (mem_mnemonicText hc).1) (by simp) ?_
  have hcmd := commandLine_decimal b i
  rwa [h] at hcmd

/-- A mnemonic is kept. -/
theorem trimChars_mnemonicText (i : Instr) : trimChars (mnemonicText i) = mnemonicText i :=
  trimChars_of_no_blank fun _ hc => (mem_mnemonicText hc).1

/-- R109: the line of a command. -/
theorem assembleLine_commandText (b : Build) (i : Instr) :
    assembleLine b (commandText i) = .ok (some (.command (encode i))) := by
  by_cases hops : i.blocks = []
  · have hline : commandText i = mnemonicText i ++ [' '] := by simp [commandText, hops, operandText]
    refine assembleLine_bareMnemonic b hops ?_
    rw [takeWhile_commandText, hline, trimChars_append_blank, trimChars_mnemonicText]
  · have htext : trimChars ((commandText i).takeWhile (· ≠ ';'))
        = mnemonicText i ++ ' ' :: operandText i.blocks := by
      rw [takeWhile_commandText, trimChars_commandText hops, commandText, List.append_assoc, List.singleton_append]
    refine assembleLine_of_commandLine htext (mnemonicText_ne_nil i) (fun c hc => (mem_mnemonicText hc).1)
      (by simp [isBlank]) ?_
    rw [lineOperands_operandText]
    exact commandLine_decimal b i

/-- R109: the bare mnemonic of a command without operands. -/
theorem assembleLine_mnemonicText (b : Build) {i : Instr} (h : i.blocks = []) :
    assembleLine b (mnemonicText i) = .ok (some (.command (encode i))) := by
  refine assembleLine_bareMnemonic b h ?_
  rw [List.takeWhile_eq_self_iff.2 fun c hc => decide_eq_true (mem_mnemonicText hc).2, trimChars_mnemonicText]

/-- Settles O60: the line is read back word by word. -/
theorem commandLineAssemblesToItsWord : Obligations.CommandLineAssemblesToItsWord := fun b i =>
  ⟨assembleLine_commandText b i, assembleLine_mnemonicText b, rfl⟩

end Sys2Proof.Machine
end

section
/-! PROOFS. The arithmetic kernels NOP, CLEAR, COPY and CMAC (R121 to R124). A command whose operand checks hold has
its effect and completes; one whose effect stores a whole block leaves that block's words and no other byte changed,
so CLEAR, COPY and CMAC differ only in the words they store. -/

namespace Sys2Proof.Machine

/-! ### Commands that are performed -/

/-- R107, R163: the operand checks hold where every named block is implemented and the destination is outside the
active bank. -/
theorem operandError_eq_none_of_dest {bd : Build} {bank : Bool} {i : Instr} {d : BlockIdx} (hdest : i.dest? = some d)
    (hblocks : ∀ x ∈ i.blocks, x.toNat < bd.numBlocks) (hbank : inBank bd bank d.toNat = false) :
    operandError bd bank i = none := by
  refine (operandError_eq_none_iff bd bank i).2 ⟨(Instr.wellFormed_iff bd i).2 hblocks, fun d' hd' => ?_⟩
  rw [hdest] at hd'
  exact Option.some.inj hd' ▸ hbank

/-- R59, R226: a command whose operand checks hold has its effect and completes. -/
theorem exec_eq_complete {i : Instr} {s : State} (h : operandError s.build s.activeBank i = none) :
    exec i s = .next (complete (commandEffect i s)) :=
  (exec_eq_perform i s).trans (perform_of_ok i _ s h)

/-- Settles O32: NOP has no operand to check and no effect. -/
theorem nopOnlyCompletes : Obligations.NopOnlyCompletes := fun _ => exec_eq_complete rfl

/-! ### Commands that store a whole block -/

/-- A command whose operand checks hold and whose effect replaces its destination's `L` words completes with these
words in the block and every other byte as it was. -/
theorem exec_of_setBlock {i : Instr} {s : State} {d : BlockIdx} {ws : List Word}
    (hok : operandError s.build s.activeBank i = none) (heffect : commandEffect i s = setBlock d.toNat ws s)
    (hlen : ws.length = s.build.L) :
    ∃ t, exec i s = .next t ∧
      t = { s with
        mem := t.mem, pending := none, busy := false, wait := none, intStatus := s.intStatus ||| 0x01 } ∧
      (∀ w, w < s.build.L → elmWord t d.toNat w = ws.getD w 0) ∧
      ∀ a, inBlockWords d.toNat s.build.L a = false → readByte t.mem a = readByte s.mem a := by
  refine ⟨complete (setBlock d.toNat ws s), ?_, rfl, fun w hw => ?_, fun a ha => ?_⟩
  · rw [exec_eq_complete hok, heffect]
  · exact readWord_writeBlock_same s.mem d.toNat w ws (by omega)
  · refine readByte_writeBlock_outside s.mem d.toNat a ws ?_
    have hout := mt (inBlockWords_iff d.toNat s.build.L a).2 (Bool.eq_false_iff.1 ha)
    omega

/-- R12: the bins of a block whose words are `ws`. -/
theorem readBin_of_words {bd : Build} {t : State} {b k : Nat} {ws : List Word} (hlen : ws.length = bd.L)
    (hwords : ∀ w, w < bd.L → elmWord t b w = ws.getD w 0) (hk : k < bd.N) :
    readBin t.mem b k = (toBins ws).getD k ⟨0, 0⟩ := by
  have hL : bd.L = 2 * bd.N := rfl
  rw [toBins_getD ws k (by omega), ← hwords (2 * k) (by omega), ← hwords (2 * k + 1) (by omega)]
  rfl

/-- Settles O33: the stored words are those of `zeroBlock`. -/
theorem clearZeroesItsBlock : Obligations.ClearZeroesItsBlock := by
  intro s dst hdst hbank
  have hok : operandError s.build s.activeBank (.clear dst) = none :=
    operandError_eq_none_of_dest rfl (by simpa [Instr.blocks] using hdst) hbank
  obtain ⟨t, hexec, hstate, hwords, hframe⟩ := exec_of_setBlock hok rfl (zeroBlock_length s.build)
  refine ⟨t, hexec, hstate, fun w hw => ?_, hframe⟩
  rw [hwords w hw, zeroBlock, List.getD_replicate _ hw]

/-- Settles O34: the stored words are those read from the source. -/
theorem copyMovesPatternsUnchanged : Obligations.CopyMovesPatternsUnchanged := by
  intro s dst src hdst hsrc hbank
  have hok : operandError s.build s.activeBank (.copy dst src) = none :=
    operandError_eq_none_of_dest rfl (by simpa [Instr.blocks] using ⟨hdst, hsrc⟩) hbank
  obtain ⟨t, hexec, hstate, hwords, hframe⟩ := exec_of_setBlock hok rfl (readBlock_length s.build s.mem src.toNat)
  refine ⟨t, hexec, hstate, fun w hw => ?_, hframe⟩
  rw [hwords w hw, readBlock_getD _ _ _ _ hw, elmWord]

/-! ### CMAC -/

theorem operandError_cmac {s : State} {acc a b : BlockIdx} (hacc : acc.toNat < s.build.numBlocks)
    (ha : a.toNat < s.build.numBlocks) (hb : b.toNat < s.build.numBlocks)
    (hbank : inBank s.build s.activeBank acc.toNat = false) :
    operandError s.build s.activeBank (.cmac acc a b) = none :=
  operandError_eq_none_of_dest rfl (by simpa [Instr.blocks] using ⟨hacc, ha, hb⟩) hbank

/-- R124: every bin by itself is accumulated by `cmacBin`. -/
theorem toBins_cmacWords_getD {acc a b : List Word} {k : Nat} (hacc : k < (toBins acc).length)
    (ha : k < (toBins a).length) (hb : k < (toBins b).length) :
    (toBins (cmacWords acc a b)).getD k ⟨0, 0⟩
      = cmacBin ((toBins acc).getD k ⟨0, 0⟩) ((toBins a).getD k ⟨0, 0⟩) ((toBins b).getD k ⟨0, 0⟩) := by
  simp [cmacWords, cmacBin, List.getD_eq_getElem?_getD, hacc, ha, hb]

/-- R124: the bins CMAC stores, from the bins of the blocks it reads. -/
theorem toBins_cmacWords_readBlock_getD {bd : Build} {k : Nat} (m : Memory) (acc a b : Nat) (hk : k < bd.N) :
    (toBins (cmacWords (readBlock bd m acc) (readBlock bd m a) (readBlock bd m b))).getD k ⟨0, 0⟩
      = cmacBin (readBin m acc k) (readBin m a k) (readBin m b k) := by
  have hlt : ∀ x, k < (toBins (readBlock bd m x)).length := fun x => by rwa [toBins_readBlock_length]
  rw [toBins_cmacWords_getD (hlt acc) (hlt a) (hlt b), toBins_readBlock bd m acc k hk, toBins_readBlock bd m a k hk,
    toBins_readBlock bd m b k hk]

theorem cmacWords_readBlock_length (bd : Build) (m : Memory) (acc a b : Nat) :
    (cmacWords (readBlock bd m acc) (readBlock bd m a) (readBlock bd m b)).length = bd.L := by
  simp only [cmacWords_length, readBlock_length, Build.L]; omega

/-- Settles O35: the stored words are those of `cmacWords`, bin by bin. -/
theorem cmacAccumulatesEachBin : Obligations.CmacAccumulatesEachBin := by
  intro s acc a b hacc ha hb hbank
  have hlen := cmacWords_readBlock_length s.build s.mem acc.toNat a.toNat b.toNat
  obtain ⟨t, hexec, hstate, hwords, hframe⟩ := exec_of_setBlock (operandError_cmac hacc ha hb hbank) rfl hlen
  refine ⟨t, hexec, hstate, fun k hk => ?_, hframe⟩
  have hbin : readBin t.mem acc.toNat k
      = cmacBin (readBin s.mem acc.toNat k) (readBin s.mem a.toNat k) (readBin s.mem b.toNat k) :=
    (readBin_of_words hlen hwords hk).trans (toBins_cmacWords_readBlock_getD s.mem _ _ _ hk)
  exact Cplx.mk.inj hbin

/-- R17, R18, R22: the complex product commutes, bit for bit. -/
theorem cmul_comm (a b : Cplx) : cmul a b = cmul b a := by
  simp only [cmul, fmul_comm a.re, fmul_comm a.im, fadd_comm (fmul b.im a.re)]

/-- R124: CMAC's words do not depend on the order of its sources. -/
theorem cmacWords_comm (acc a b : List Word) : cmacWords acc a b = cmacWords acc b a := by
  rw [cmacWords, cmacWords, List.zipWith_comm_of_comm cmul_comm]

/-- Settles O36: in both orders the operand checks hold and the same words are stored. -/
theorem cmacSourcesCommute : Obligations.CmacSourcesCommute := by
  intro s acc a b hacc ha hb hbank
  rw [exec_eq_complete (operandError_cmac hacc ha hb hbank), exec_eq_complete (operandError_cmac hacc hb ha hbank),
    commandEffect, commandEffect, cmacWords_comm]

end Sys2Proof.Machine
end

section
/-! PROOFS. Bit reversal and the load (R142, R145): reversing `g` bits is its own inverse below `2 ^ g`, so the load
moves every point to a place of its own. -/

namespace Sys2Proof.Machine

/-! ### Bit reversal -/

theorem bitRev_lt (g n : Nat) : bitRev g n < 2 ^ g := by
  induction g generalizing n with
  | zero => exact Nat.one_pos
  | succ g ih =>
    have hlow := ih (n / 2)
    have hbit : n % 2 * 2 ^ g ≤ 1 * 2 ^ g := Nat.mul_le_mul_right _ (by omega)
    rw [bitRev, Nat.pow_succ]
    omega

/-- R142: bit `j` of the reversal is bit `g - 1 - j`. -/
theorem testBit_bitRev {g j : Nat} (n : Nat) (hj : j < g) : (bitRev g n).testBit j = n.testBit (g - 1 - j) := by
  induction g generalizing n with
  | zero => omega
  | succ g ih =>
    rw [bitRev, Nat.mul_comm, Nat.testBit_two_pow_mul_add _ (bitRev_lt g _)]
    split_ifs with hlow
    · rw [ih _ hlow, ← Nat.testBit_succ, show (g - 1 - j).succ = g + 1 - 1 - j by omega]
    · obtain rfl : j = g := by omega
      simp [Nat.testBit_zero]

/-- Settles O54: the bits of the reversal, one by one. -/
theorem bitReversalReadsBackwards : Obligations.BitReversalReadsBackwards :=
  ⟨fun _ _ _ _ => testBit_bitRev _, bitRev_lt, by decide, by decide, by decide⟩

theorem bitRev_bitRev {g n : Nat} (h : n < 2 ^ g) : bitRev g (bitRev g n) = n := by
  apply Nat.eq_of_testBit_eq
  intro j
  by_cases hj : j < g
  · rw [testBit_bitRev _ hj, testBit_bitRev _ (by omega), show g - 1 - (g - 1 - j) = j by omega]
  · have hpow : 2 ^ g ≤ 2 ^ j := Nat.pow_le_pow_right (by omega) (by omega)
    rw [Nat.testBit_lt_two_pow (h.trans_le hpow), Nat.testBit_lt_two_pow ((bitRev_lt g _).trans_le hpow)]

theorem bitRev_eq_iff {g n m : Nat} (hn : n < 2 ^ g) (hm : m < 2 ^ g) : bitRev g n = m ↔ n = bitRev g m :=
  ⟨fun h => by rw [← h, bitRev_bitRev hn], fun h => by rw [h, bitRev_bitRev hm]⟩

/-! ### The engine's sequence -/

theorem point_set_same {y : List Cplx} {i : Nat} (z : Cplx) (h : i < y.length) : point (y.set i z) i = z := by
  simp [point, h]

theorem point_set_other {y : List Cplx} {i k : Nat} (z : Cplx) (h : i ≠ k) : point (y.set i z) k = point y k := by
  simp [point, h]

theorem point_replicate {n i : Nat} (z : Cplx) (h : i < n) : point (List.replicate n z) i = z :=
  List.getD_replicate _ h

theorem eq_of_point_eq {x y : List Cplx} (hlen : x.length = y.length)
    (h : ∀ i, i < x.length → point x i = point y i) : x = y := by
  refine List.ext_getElem hlen fun i hx hy => ?_
  simpa [point, hx, hy] using h i hx

/-! ### The load -/

/-- The load after its first `m` points. -/
theorem point_foldl_load {g m n : Nat} (x : List Cplx) (hm : m ≤ 2 ^ g) (hn : n < m) :
    point ((List.range m).foldl (fun y n => y.set (bitRev g n) (point x n)) (List.replicate (2 ^ g) ⟨0, 0⟩))
      (bitRev g n) = point x n := by
  induction m with
  | zero => omega
  | succ m ih =>
    rw [List.range_succ, List.foldl_concat]
    by_cases hnm : n = m
    · subst hnm
      refine point_set_same _ ?_
      rw [foldl_length _ (fun _ _ => List.length_set), List.length_replicate]
      exact bitRev_lt g n
    · have hne : bitRev g m ≠ bitRev g n := fun h => hnm <| by
        rw [bitRev_eq_iff (by omega) (bitRev_lt g n), bitRev_bitRev (by omega)] at h
        exact h.symm
      rw [point_set_other _ hne]
      exact ih (by omega) (by omega)

/-- Settles O55: no later point is loaded over an earlier one. -/
theorem loadIsBitReversed : Obligations.LoadIsBitReversed := fun _ _ x hn => point_foldl_load x le_rfl hn

/-- R145: the loaded sequence, element by element. -/
theorem point_loadReversed {g i : Nat} (x : List Cplx) (h : i < 2 ^ g) :
    point (loadReversed g x) i = point x (bitRev g i) := by
  rw [← loadIsBitReversed g _ x (bitRev_lt g i), bitRev_bitRev h]

end Sys2Proof.Machine
end

section
/-! PROOFS. A stage (R143 to R145): its butterflies are on disjoint pairs, so each reads what the stage before left. -/

namespace Sys2Proof.Machine

/-! ### Loops whose steps do not interfere -/

section
variable {σ ι γ : Type} {f : σ → ι → σ} {P : σ → Prop} {obs : σ → γ}

/-- What no step of a loop changes, the loop does not change. -/
theorem foldl_observe_unchanged (hP : ∀ y b, P y → P (f y b)) {l : List ι}
    (h : ∀ b ∈ l, ∀ y, P y → obs (f y b) = obs y) {y : σ} (hy : P y) : obs (l.foldl f y) = obs y := by
  induction l generalizing y with
  | nil => rfl
  | cons b l ih =>
    rw [List.foldl_cons, ih (fun c hc => h c (List.mem_cons_of_mem _ hc)) (hP y b hy), h b List.mem_cons_self y hy]

/-- What only one step of a loop changes, the loop changes as that step does. -/
theorem foldl_observe_step (hP : ∀ y b, P y → P (f y b)) {u : γ → γ} {a : ι} {l : List ι} (hl : l.Nodup)
    (ha : a ∈ l) (hself : ∀ y, P y → obs (f y a) = u (obs y))
    (hother : ∀ b ∈ l, b ≠ a → ∀ y, P y → obs (f y b) = obs y) {y : σ} (hy : P y) :
    obs (l.foldl f y) = u (obs y) := by
  induction l generalizing y with
  | nil => cases ha
  | cons b l ih =>
    obtain ⟨hb, hl⟩ := List.nodup_cons.1 hl
    rw [List.foldl_cons]
    by_cases hba : b = a
    · subst hba
      rw [foldl_observe_unchanged hP (fun c hc => hother c (List.mem_cons_of_mem _ hc) fun hcb => hb (hcb ▸ hc))
        (hP y b hy), hself y hy]
    · rw [ih hl ((List.mem_cons.1 ha).resolve_left (Ne.symm hba))
        (fun c hc => hother c (List.mem_cons_of_mem _ hc)) (hP y b hy), hother b List.mem_cons_self hba y hy]

end

/-! ### The butterflies of a stage -/

/-- The two operands of butterfly `j` of the group at `base`, in a stage of half size `h`. -/
def operands (h base j : Nat) (y : List Cplx) : Cplx × Cplx := (point y (base + j), point y (base + j + h))

/-- R143, R144: a butterfly replaces its two operands. -/
theorem operands_bflyAt_same (dir : Dir) {g h base j : Nat} (k : Nat) {y : List Cplx} (hpos : 0 < h)
    (hlt : base + j + h < y.length) :
    operands h base j (bflyAt dir g h k base j y)
      = bfly dir g k (operands h base j y).1 (operands h base j y).2 := by
  refine Prod.ext ?_ ?_
  · exact (point_set_other _ (by omega)).trans (point_set_same _ (by omega))
  · exact point_set_same _ (by rwa [List.length_set])

theorem operands_bflyAt_other (dir : Dir) (g k : Nat) {h base j base' j' : Nat} (y : List Cplx)
    (hne : ∀ a ∈ [base + j, base + j + h], ∀ b ∈ [base' + j', base' + j' + h], a ≠ b) :
    operands h base' j' (bflyAt dir g h k base j y) = operands h base' j' y := by
  simp only [List.mem_cons, List.not_mem_nil, or_false, forall_eq_or_imp, forall_eq] at hne
  obtain ⟨⟨h11, h12⟩, h21, h22⟩ := hne
  simp only [operands, bflyAt, point_set_other _ h21, point_set_other _ h11, point_set_other _ h22,
    point_set_other _ h12]

/-- R145: the group of a butterfly's own base does just that butterfly to its operands. -/
theorem operands_bflyGroup_same (dir : Dir) {g h base j : Nat} (step : Nat) {y : List Cplx} (hj : j < h)
    (hlt : base + 2 * h ≤ y.length) :
    operands h base j (bflyGroup dir g h step base y)
      = bfly dir g (j * step) (operands h base j y).1 (operands h base j y).2 := by
  refine foldl_observe_step (P := fun z => z.length = y.length) (u := fun p => bfly dir g (j * step) p.1 p.2)
    (fun z b hz => by simpa using hz) List.nodup_range (List.mem_range.2 hj)
    (fun z hz => operands_bflyAt_same dir _ (by omega) (by omega)) (fun b hb hne z _ => ?_) rfl
  have := List.mem_range.1 hb
  exact operands_bflyAt_other dir g _ z (by simp only [List.mem_cons, List.not_mem_nil, or_false]; omega)

/-- R145: a group at another base leaves the operands alone. -/
theorem operands_bflyGroup_other (dir : Dir) (g step : Nat) {h base base' j : Nat} (y : List Cplx) (hj : j < h)
    (hne : base + 2 * h ≤ base' ∨ base' + 2 * h ≤ base) :
    operands h base' j (bflyGroup dir g h step base y) = operands h base' j y := by
  refine foldl_observe_unchanged (P := fun _ => True) (fun _ _ _ => trivial) (fun b hb z _ => ?_) trivial
  have := List.mem_range.1 hb
  exact operands_bflyAt_other dir g _ z (by simp only [List.mem_cons, List.not_mem_nil, or_false]; omega)

/-- Runs of `m` elements at different multiples of `m` do not meet. -/
theorem mul_add_le_mul_of_lt {q r : Nat} (m : Nat) (h : q < r) : q * m + m ≤ r * m := by
  rw [← Nat.succ_mul]; exact Nat.mul_le_mul_right m h

/-- R145: a stage does to the operands of each of its butterflies just that butterfly. -/
theorem operands_stage (dir : Dir) {g st q j : Nat} {y : List Cplx} (hst : 1 ≤ st) (hg : st ≤ g)
    (hlen : y.length = 2 ^ g) (hq : q < 2 ^ (g - st)) (hj : j < 2 ^ (st - 1)) :
    operands (2 ^ (st - 1)) (q * 2 ^ st) j (stage dir g st y)
      = bfly dir g (j * 2 ^ (g - st)) (point y (q * 2 ^ st + j)) (point y (q * 2 ^ st + j + 2 ^ (st - 1))) := by
  have hhalf := Nat.two_pow_pred_add_two_pow_pred hst
  have hsize : 2 ^ (g - st) * 2 ^ st = 2 ^ g := pow_sub_mul_pow 2 hg
  refine foldl_observe_step (P := fun z => z.length = y.length) (obs := operands (2 ^ (st - 1)) (q * 2 ^ st) j)
    (u := fun p => bfly dir g (j * 2 ^ (g - st)) p.1 p.2) (fun z b hz => by simpa using hz) List.nodup_range
    (List.mem_range.2 hq) (fun z hz => ?_) (fun r _ hne z _ => ?_) rfl
  · have := mul_add_le_mul_of_lt (2 ^ st) hq
    exact operands_bflyGroup_same dir _ hj (by omega)
  · refine operands_bflyGroup_other dir g _ z hj ?_
    rcases Nat.lt_or_gt_of_ne hne with hlt | hlt
    · have := mul_add_le_mul_of_lt (2 ^ st) hlt; omega
    · have := mul_add_le_mul_of_lt (2 ^ st) hlt; omega

/-- Settles O56: the two directions differ in how the lower operand is rotated. -/
theorem stageAppliesEachButterflyToThePreviousStage : Obligations.StageAppliesEachButterflyToThePreviousStage := by
  intro dir g st q j y hst hg hlen hq hj
  have hpair := operands_stage dir hst hg hlen hq hj
  cases dir <;> exact Prod.mk.inj hpair

end Sys2Proof.Machine
end

section
/-! PROOFS. Exact arithmetic: a representable value rounds to its own pattern (R15), so adding a zero and multiplying
by 1 change nothing, and powers of two double exactly (R17, R18). -/

namespace Sys2Proof.Machine

/-! ### The pattern of a finite value -/

/-- R14: the bounds of a finite value, and its pattern packed again from them. -/
theorem packFinite_of_classify {w : Word} {neg : Bool} {sig exp : Nat} (h : classify w = .finite neg sig exp) :
    sig < 2 ^ 24 ∧ exp ≤ 253 ∧ (exp ≠ 0 → 2 ^ 23 ≤ sig) ∧ packFinite neg sig exp = w := by
  have hfrac : fraction w < 2 ^ 23 := by rw [fraction_eq]; omega
  have hbexp : biasedExp w < 2 ^ 8 := by rw [biasedExp_eq]; omega
  have hpack : ∀ {m u : Nat}, biasedExp w ≠ 255 → u * 2 ^ 23 + m = biasedExp w * 2 ^ 23 + fraction w →
      packFinite (signBit w) m u = w := fun h255 hv => by
    obtain ⟨hs, he, hf⟩ := packFinite_parts (signBit w) hv (by omega) hfrac
    exact word_eq_of_parts_eq hs he hf
  rcases classify_cases w with ⟨_, _, hc⟩ | ⟨_, _, hc⟩ | ⟨he, hc⟩ | ⟨h0, h255, hc⟩ <;> rw [h] at hc <;> cases hc
  · exact ⟨by omega, by omega, by omega, hpack (by omega) (by omega)⟩
  · exact ⟨by omega, by omega, by omega, hpack h255 (by omega)⟩

/-- R15: a value that a pattern holds rounds to that pattern. -/
theorem rn32_of_classify {w : Word} {neg : Bool} {sig exp n k : Nat} (h : classify w = .finite neg sig exp)
    (hsig : sig ≠ 0) (hval : n * 2 ^ 149 = sig * 2 ^ exp * 2 ^ k) : rn32 neg n k = w := by
  obtain ⟨hlt, hexp, hnormal, hpack⟩ := packFinite_of_classify h
  have hn : n ≠ 0 := by rintro rfl; simp [hsig] at hval
  have hupper : n.log2 + 149 < 24 + (exp + k) := by
    refine (pow_lt_pow_iff_right₀ Nat.one_lt_two).1 ((?_ : _ ≤ n * 2 ^ 149).trans_lt ?_)
    · rw [pow_add]; exact Nat.mul_le_mul_right _ (Nat.log2_self_le hn)
    · rw [hval, mul_assoc, ← pow_add, pow_add 2 24]; exact Nat.mul_lt_mul_of_pos_right hlt (by positivity)
  have hlower : exp ≠ 0 → 23 + (exp + k) < n.log2 + 1 + 149 := fun h0 => by
    refine (pow_lt_pow_iff_right₀ Nat.one_lt_two).1 ((?_ : _ ≤ n * 2 ^ 149).trans_lt ?_)
    · rw [hval, mul_assoc, ← pow_add, pow_add 2 23]; exact Nat.mul_le_mul_right _ (hnormal h0)
    · rw [pow_add]; exact Nat.mul_lt_mul_of_pos_right Nat.lt_log2_self (by positivity)
  have hunit : rnUnit n k = exp := by
    rw [rnUnit]
    by_cases h0 : exp = 0
    · omega
    · have := hlower h0; omega
  have hround : rnSig n k = sig := by
    rw [rnSig, hunit, hval, mul_assoc, ← pow_add, add_comm exp, roundEven_mul_self _ (by positivity)]
  rw [rn32_of_lt, hround, hunit, hpack]
  rw [hround, hunit]
  calc sig * 2 ^ exp < 2 ^ 24 * 2 ^ 253 :=
        Nat.mul_lt_mul_of_lt_of_le hlt (Nat.pow_le_pow_right (by omega) hexp) (by positivity)
    _ = 2 ^ 277 := by rw [← pow_add]

theorem signBit_flip (w : Word) : signBit (w ^^^ 0x80000000) = !signBit w := by
  simp [signBit]

theorem classify_of_finite {w : Word} (h : biasedExp w ≠ 255) :
    ∃ sig exp, classify w = .finite (signBit w) sig exp := by
  obtain ⟨sig, exp, hc, -⟩ := classify_finite_value h
  exact ⟨sig, exp, hc⟩

/-- R17: the negation of a finite value inverts bit 31. -/
theorem fneg_of_finite {w : Word} (h : biasedExp w ≠ 255) : fneg w = w ^^^ 0x80000000 := by
  rw [fneg_eq, if_neg fun hnan => h ((classify_eq_nan_iff w).1 hnan).1]

/-- R17: a finite value and its negation differ in sign alone. -/
theorem classify_fneg {w : Word} {neg : Bool} {sig exp : Nat} (h : classify w = .finite neg sig exp) :
    classify (fneg w) = .finite (!neg) sig exp := by
  have hfin : biasedExp w ≠ 255 := fun h255 => by
    rw [classify, if_pos h255] at h
    split_ifs at h
  rw [classify, if_neg hfin] at h
  rw [fneg_of_finite hfin, classify, biasedExp_flip, fraction_flip, signBit_flip, if_neg hfin]
  split_ifs at h ⊢ <;> cases h <;> rfl

/-! ### Zeros and ones among the operands -/

/-- A finite value other than -0: what adding a zero of either sign leaves as it is. -/
abbrev Plain (w : Word) : Prop := biasedExp w ≠ 255 ∧ w ≠ zero true

theorem plain_zero : Plain (0 : Word) := by decide

theorem plain_one : Plain (0x3F800000 : Word) := by decide

@[simp] theorem fneg_zero (a : Bool) : fneg (zero a) = zero (!a) := by cases a <;> decide

theorem fadd_zero_right {w : Word} (h : Plain w) (z : Bool) : fadd w (zero z) = w := by
  obtain ⟨hfin, hne⟩ := h
  obtain ⟨sig, exp, hc⟩ := classify_of_finite hfin
  have hz : signedUnits z 0 0 = 0 := (signedUnits_eq_zero_iff ..).2 rfl
  by_cases hsig : sig = 0
  · rw [fadd_of_sum_eq_zero hc (classify_zero z) (by rw [hz, (signedUnits_eq_zero_iff ..).2 hsig]; rfl),
      if_neg fun hw => hne hw.1]
    exact (((sig_eq_zero_iff hc).1 hsig).resolve_right hne).symm
  · have hsum : signedUnits (signBit w) sig exp + signedUnits z 0 0 = signedUnits (signBit w) sig exp := by
      rw [hz, add_zero]
    rw [fadd_of_sum_ne_zero hc (classify_zero z) (by rwa [hsum, ne_eq, signedUnits_eq_zero_iff]), hsum,
      decide_signedUnits_neg _ _ hsig, natAbs_signedUnits]
    exact rn32_of_classify hc hsig rfl

theorem fadd_zero_left {w : Word} (h : Plain w) (z : Bool) : fadd (zero z) w = w := by
  rw [fadd_comm, fadd_zero_right h]

theorem fsub_zero_right {w : Word} (h : Plain w) (z : Bool) : fsub w (zero z) = w := by
  rw [fsub, fneg_zero, fadd_zero_right h]

theorem fmul_zero_left {w : Word} (h : biasedExp w ≠ 255) (z : Bool) :
    fmul (zero z) w = zero (z != signBit w) := by
  obtain ⟨sig, exp, hc⟩ := classify_of_finite h
  rw [fmul_finite (classify_zero z) hc, if_pos (Nat.zero_mul _)]

theorem classify_one : classify 0x3F800000 = .finite false (2 ^ 23) 126 := by decide

theorem fmul_one_left {w : Word} (h : biasedExp w ≠ 255) : fmul 0x3F800000 w = w := by
  obtain ⟨sig, exp, hc⟩ := classify_of_finite h
  rw [fmul_finite classify_one hc, Bool.false_bne]
  by_cases hsig : sig = 0
  · subst hsig
    exact (if_pos (Nat.mul_zero _)).trans (eq_zero_of_classify hc).symm
  · rw [if_neg (by positivity)]
    have hpow : (2 : Nat) ^ 298 = 2 ^ 23 * 2 ^ 126 * 2 ^ 149 := by rw [← pow_add, ← pow_add]
    exact rn32_of_classify hc hsig (by rw [hpow, pow_add]; ring)

/-- R17: a finite value less itself is +0. -/
theorem fsub_self {w : Word} (h : Plain w) : fsub w w = zero false := by
  obtain ⟨hfin, hne⟩ := h
  obtain ⟨sig, exp, hc⟩ := classify_of_finite hfin
  have hsum : signedUnits (signBit w) sig exp + signedUnits (!signBit w) sig exp = 0 := by
    cases signBit w <;> simp [signedUnits]
  rw [fsub, fadd_of_sum_eq_zero hc (classify_fneg hc) hsum, if_neg fun hw => hne hw.1]

/-- R17: twice a positive normal value is the pattern with the exponent one higher. -/
theorem fadd_self {v w : Word} {sig exp : Nat} (hsig : sig ≠ 0) (hv : classify v = .finite false sig exp)
    (hw : classify w = .finite false sig (exp + 1)) : fadd v v = w := by
  have hsum : signedUnits false sig exp + signedUnits false sig exp = signedUnits false sig (exp + 1) := by
    simp only [signedUnits, Bool.false_eq_true, if_false, pow_succ]; push_cast; ring
  rw [fadd_of_sum_ne_zero hv hv (by rwa [hsum, ne_eq, signedUnits_eq_zero_iff]), hsum,
    decide_signedUnits_neg _ _ hsig, natAbs_signedUnits]
  exact rn32_of_classify hw hsig rfl

/-! ### Powers of two -/

/-- R14: the patterns of the powers of two are the exponent field alone. -/
theorem parts_of_exponent {e : Nat} (h : e < 255) :
    signBit (BitVec.ofNat 32 (e * 2 ^ 23)) = false ∧ biasedExp (BitVec.ofNat 32 (e * 2 ^ 23)) = e ∧
      fraction (BitVec.ofNat 32 (e * 2 ^ 23)) = 0 := by
  have hpack : packFinite false 0 e = BitVec.ofNat 32 (e * 2 ^ 23) := by
    rw [packFinite, Nat.add_zero]; exact BitVec.zero_or
  rw [← hpack]
  exact packFinite_parts false rfl h (by positivity)

theorem classify_of_exponent {e : Nat} (h0 : e ≠ 0) (h : e < 255) :
    classify (BitVec.ofNat 32 (e * 2 ^ 23)) = .finite false (2 ^ 23) (e - 1) := by
  obtain ⟨hs, he, hf⟩ := parts_of_exponent h
  rw [classify_eq_normal (by omega) (by omega), hs, he, hf, Nat.add_zero]

end Sys2Proof.Machine
end

section
/-! PROOFS. The twiddle ROM and the butterflies on it (R141, R143, R144): which values the ROM holds, and what a
butterfly does to a zero lower operand, which is all that an impulse's transform does but for one stage. -/

namespace Sys2Proof.Machine

/-! ### The ROM -/

/-- R141: at every size, an entry is an entry of the table for 256 points; that table at its own index. -/
theorem twiddle_eq (g k : Nat) : twc g k = twc 8 (k * 2 ^ (8 - g)) ∧ tws g k = tws 8 (k * 2 ^ (8 - g)) := by
  simp [twc, tws]

theorem twc_zero (g : Nat) : twc g 0 = 0x3F800000 := by rw [twc, Nat.zero_mul]; rfl

theorem tws_zero (g : Nat) : tws g 0 = zero false := by rw [tws, Nat.zero_mul]; rfl

theorem plain_of_mem_twcTable : ∀ w ∈ twcTable, Plain w := by
  have hall : twcTable.all (fun w => decide (Plain w)) = true := by decide +kernel
  simpa only [List.all_eq_true, decide_eq_true_eq] using hall

/-- R141: every `TWS[k]` is at least 0. -/
theorem finite_nonneg_of_mem_twsTable : ∀ w ∈ twsTable, biasedExp w ≠ 255 ∧ signBit w = false := by
  have hall : twsTable.all (fun w => decide (biasedExp w ≠ 255 ∧ signBit w = false)) = true := by decide +kernel
  simpa only [List.all_eq_true, decide_eq_true_eq] using hall

theorem twsTable_ne_zero : ∀ i < 128, i ≠ 0 → twsTable.getD i 0 ≠ 0 := by decide +kernel

/-- What holds of the default 0 and of every element holds of every access. -/
theorem getD_of_forall_mem {α : Type} {p : α → Prop} {l : List α} {d : α} (hd : p d) (h : ∀ a ∈ l, p a) (i : Nat) :
    p (l.getD i d) := by
  by_cases hi : i < l.length
  · rw [List.getD_eq_getElem _ _ hi]; exact h _ (List.getElem_mem hi)
  · rwa [List.getD_eq_default _ _ (Nat.not_lt.1 hi)]

theorem plain_twc (g k : Nat) : Plain (twc g k) := getD_of_forall_mem plain_zero plain_of_mem_twcTable _

theorem tws_finite_nonneg (g k : Nat) : biasedExp (tws g k) ≠ 255 ∧ signBit (tws g k) = false :=
  getD_of_forall_mem (p := fun w => biasedExp w ≠ 255 ∧ signBit w = false) (by decide) finite_nonneg_of_mem_twsTable _

/-- R141: the sine is +0 at `k = 0` alone. -/
theorem tws_ne_zero {g k : Nat} (hg : 1 ≤ g) (hg8 : g ≤ 8) (hk : 1 ≤ k) (hlt : k < 2 ^ (g - 1)) : tws g k ≠ 0 := by
  refine twsTable_ne_zero _ ?_ (by positivity)
  calc k * 2 ^ (8 - g) < 2 ^ (g - 1) * 2 ^ (8 - g) := Nat.mul_lt_mul_of_pos_right hlt (by positivity)
    _ = 2 ^ 7 := by rw [← pow_add]; congr 1; omega

/-! ### Butterflies -/

/-- A complex value of two plain words. -/
abbrev PlainBin (z : Cplx) : Prop := Plain z.re ∧ Plain z.im

theorem plainBin_zero : PlainBin ⟨0, 0⟩ := ⟨plain_zero, plain_zero⟩

theorem fadd_zero_zero (a b : Bool) : ∃ z, fadd (zero a) (zero b) = zero z :=
  ⟨a && b, by cases a <;> cases b <;> decide⟩

/-- R143, R144: a zero rotates to a zero; the signs of its parts may differ. -/
theorem rotate_zero (dir : Dir) (g k : Nat) : ∃ a b, rotate dir g k ⟨0, 0⟩ = ⟨zero a, zero b⟩ := by
  obtain ⟨c, hc⟩ : ∃ c, fmul (zero false) (twc g k) = zero c := ⟨_, fmul_zero_left (plain_twc g k).1 false⟩
  obtain ⟨s, hs⟩ : ∃ s, fmul (zero false) (tws g k) = zero s := ⟨_, fmul_zero_left (tws_finite_nonneg g k).1 false⟩
  obtain ⟨a, hadd⟩ := fadd_zero_zero c s
  obtain ⟨b, hsub⟩ : ∃ b, fsub (zero c) (zero s) = zero b := by rw [fsub, fneg_zero]; exact fadd_zero_zero c !s
  rw [← hc, ← hs] at hadd hsub
  cases dir with
  | fwd => exact ⟨a, b, congrArg₂ Cplx.mk hadd hsub⟩
  | inv => exact ⟨b, a, congrArg₂ Cplx.mk hsub hadd⟩

/-- R143, R144: with a zero lower operand both outputs are the upper one. -/
theorem bfly_lower_zero (dir : Dir) (g k : Nat) {a : Cplx} (ha : PlainBin a) : bfly dir g k a ⟨0, 0⟩ = (a, a) := by
  obtain ⟨hre, him⟩ := ha
  obtain ⟨x, y, ht⟩ := rotate_zero dir g k
  rw [bfly, ht]
  simp only [bflyUpper, bflyLower, fadd_zero_right hre, fadd_zero_right him, fsub_zero_right hre,
    fsub_zero_right him]

end Sys2Proof.Machine
end

section
/-! PROOFS. Stages that repeat a pattern (R145, R148): where the lower operand of every butterfly is zero, a stage
copies each upper operand, so a pattern of `2 ^ n` elements among zeros is repeated to twice its length. -/

namespace Sys2Proof.Machine

/-! ### A stage by its butterflies -/

/-- The indices below `2 ^ g` are those of the operands of a stage's butterflies. -/
theorem exists_operand_index {g n i : Nat} (hn : n < g) (hi : i < 2 ^ g) :
    ∃ q j, q < 2 ^ (g - (n + 1)) ∧ j < 2 ^ n ∧
      (i = q * 2 ^ (n + 1) + j ∨ i = q * 2 ^ (n + 1) + j + 2 ^ n) := by
  have hm := Nat.two_pow_succ n
  have hsize : 2 ^ (n + 1) * 2 ^ (g - (n + 1)) = 2 ^ g := pow_mul_pow_sub 2 hn
  have hdiv : i / 2 ^ (n + 1) * 2 ^ (n + 1) + i % 2 ^ (n + 1) = i := Nat.div_add_mod' ..
  have hmod : i % 2 ^ (n + 1) < 2 ^ (n + 1) := Nat.mod_lt _ (by positivity)
  have hq : i / 2 ^ (n + 1) < 2 ^ (g - (n + 1)) := Nat.div_lt_of_lt_mul (hsize.symm ▸ hi)
  by_cases hlow : i % 2 ^ (n + 1) < 2 ^ n
  · exact ⟨_, _, hq, hlow, .inl hdiv.symm⟩
  · exact ⟨_, i % 2 ^ (n + 1) - 2 ^ n, hq, by omega, .inr (by omega)⟩

/-- R145: to know a sequence after a stage it is enough to know its butterflies. -/
theorem point_stage_of_bfly {dir : Dir} {g n : Nat} {y : List Cplx} {v w : Nat → Cplx} (hn : n < g)
    (hlen : y.length = 2 ^ g) (hy : ∀ i, i < 2 ^ g → point y i = v i)
    (h : ∀ q j, j < 2 ^ n →
      bfly dir g (j * 2 ^ (g - (n + 1))) (v (q * 2 ^ (n + 1) + j)) (v (q * 2 ^ (n + 1) + j + 2 ^ n))
        = (w (q * 2 ^ (n + 1) + j), w (q * 2 ^ (n + 1) + j + 2 ^ n)))
    (i : Nat) (hi : i < 2 ^ g) : point (stage dir g (n + 1) y) i = w i := by
  obtain ⟨q, j, hq, hj, hij⟩ := exists_operand_index hn hi
  have hm := Nat.two_pow_succ n
  have hsize : 2 ^ (g - (n + 1)) * 2 ^ (n + 1) = 2 ^ g := pow_sub_mul_pow 2 hn
  have hend := mul_add_le_mul_of_lt (2 ^ (n + 1)) hq
  have hpair := operands_stage dir (st := n + 1) (by omega) (by omega) hlen hq hj
  rw [Nat.add_sub_cancel, hy _ (by omega), hy _ (by omega), h q j hj] at hpair
  obtain ⟨hupper, hlower⟩ := Prod.mk.inj hpair
  obtain rfl | rfl := hij
  · exact hupper
  · exact hlower

/-! ### Spreading -/

/-- The sequence that is `v` on the `2 ^ n` elements from `p` on and zero elsewhere. -/
def spread (p n : Nat) (v : Nat → Cplx) (i : Nat) : Cplx := if p ≤ i ∧ i < p + 2 ^ n then v i else ⟨0, 0⟩

theorem plainBin_spread {p n : Nat} {v : Nat → Cplx} (hv : ∀ i, PlainBin (v i)) (i : Nat) :
    PlainBin (spread p n v i) := by
  unfold spread
  split_ifs
  · exact hv i
  · exact plainBin_zero

/-- R148: a stage over a pattern at the start of one of its groups repeats the pattern. -/
theorem point_stage_spread {dir : Dir} {g n p : Nat} {y : List Cplx} {v : Nat → Cplx} (hn : n < g)
    (hlen : y.length = 2 ^ g) (hp : 2 ^ (n + 1) ∣ p) (hv : ∀ i, PlainBin (v i)) (hper : Function.Periodic v (2 ^ n))
    (hy : ∀ i, i < 2 ^ g → point y i = spread p n v i) :
    ∀ i, i < 2 ^ g → point (stage dir g (n + 1) y) i = spread p (n + 1) v i := by
  refine point_stage_of_bfly hn hlen hy fun q j hj => ?_
  obtain ⟨c, rfl⟩ := hp
  rw [Nat.mul_comm _ c]
  have hm := Nat.two_pow_succ n
  have hcopy := hper (q * 2 ^ (n + 1) + j)
  suffices hgroup : spread (c * 2 ^ (n + 1)) n v (q * 2 ^ (n + 1) + j + 2 ^ n) = ⟨0, 0⟩ ∧
      spread (c * 2 ^ (n + 1)) (n + 1) v (q * 2 ^ (n + 1) + j)
        = spread (c * 2 ^ (n + 1)) n v (q * 2 ^ (n + 1) + j) ∧
      spread (c * 2 ^ (n + 1)) (n + 1) v (q * 2 ^ (n + 1) + j + 2 ^ n)
        = spread (c * 2 ^ (n + 1)) n v (q * 2 ^ (n + 1) + j) by
    obtain ⟨hlower, hfirst, hsecond⟩ := hgroup
    rw [hlower, bfly_lower_zero _ _ _ (plainBin_spread hv _), hfirst, hsecond]
  simp only [spread, hcopy]
  rcases Nat.lt_trichotomy q c with hqc | rfl | hqc
  · have := mul_add_le_mul_of_lt (2 ^ (n + 1)) hqc
    refine ⟨if_neg (by omega), ?_, ?_⟩ <;> rw [if_neg (by omega), if_neg (by omega)]
  · refine ⟨if_neg (by omega), ?_, ?_⟩ <;> rw [if_pos (by omega), if_pos (by omega)]
  · have := mul_add_le_mul_of_lt (2 ^ (n + 1)) hqc
    refine ⟨if_neg (by omega), ?_, ?_⟩ <;> rw [if_neg (by omega), if_neg (by omega)]

/-- R148: stages `m + 1` to `n` repeat a pattern of `2 ^ m` elements to `2 ^ n`. -/
theorem point_stages_spread {dir : Dir} {g m n p : Nat} {y : List Cplx} {v : Nat → Cplx} (hmn : m ≤ n) (hn : n ≤ g)
    (hlen : y.length = 2 ^ g) (hp : 2 ^ n ∣ p) (hv : ∀ i, PlainBin (v i)) (hper : Function.Periodic v (2 ^ m))
    (hy : ∀ i, i < 2 ^ g → point (stages dir g y m) i = spread p m v i) :
    ∀ i, i < 2 ^ g → point (stages dir g y n) i = spread p n v i := by
  induction n, hmn using Nat.le_induction with
  | base => exact hy
  | succ n hmn ih =>
    have hper' : Function.Periodic v (2 ^ n) := by
      have := hper.nat_mul (2 ^ (n - m))
      rwa [Nat.cast_id, ← pow_add, Nat.sub_add_cancel hmn] at this
    exact point_stage_spread hn (by rwa [stages_length]) hp hv hper'
      (ih (by omega) ((Nat.pow_dvd_pow 2 (Nat.le_succ n)).trans hp))

/-! ### The whole transform -/

theorem transform_fwd (g : Nat) (x : List Cplx) : transform .fwd g x = stages .fwd g (loadReversed g x) g :=
  List.map_id _

theorem transform_inv (g : Nat) (x : List Cplx) :
    transform .inv g x
      = (stages .inv g (loadReversed g x) g).map fun z => ⟨fmul z.re (invScale g), fmul z.im (invScale g)⟩ := rfl

/-- R14, R145: the scale is the value `2 ^ 23 · 2 ^ (126 - g)` units. -/
theorem classify_invScale {g : Nat} (h : g ≤ 8) : classify (invScale g) = .finite false (2 ^ 23) (126 - g) := by
  rw [invScale, classify_of_exponent (by omega) (by omega)]
  congr 1
  omega

theorem scaleOut_zero (dir : Dir) {g : Nat} (h : g ≤ 8) : scaleOut dir g ⟨0, 0⟩ = ⟨0, 0⟩ := by
  cases dir with
  | fwd => rfl
  | inv =>
    obtain ⟨hs, he, -⟩ := parts_of_exponent (e := 127 - g) (by omega)
    have hmul : fmul (zero false) (invScale g) = zero false := by
      rw [fmul_zero_left (by rw [invScale, he]; omega), invScale, hs]
      rfl
    exact congrArg₂ Cplx.mk hmul hmul

/-- Settles O57: zeros are a pattern that every stage repeats. -/
theorem transformOfZerosIsZeros : Obligations.TransformOfZerosIsZeros := by
  intro dir g _ hg
  have hload : ∀ i, i < 2 ^ g →
      point (loadReversed g (List.replicate (2 ^ g) ⟨0, 0⟩)) i = spread 0 0 (fun _ => ⟨0, 0⟩) i := fun i hi => by
    rw [point_loadReversed _ hi, point_replicate _ (bitRev_lt g i), spread, ite_self]
  have hstages := point_stages_spread (dir := dir) (Nat.zero_le g) le_rfl (loadReversed_length g _) (Nat.dvd_zero _)
    (fun _ => plainBin_zero) (fun _ => rfl) hload
  have hzeros : stages dir g (loadReversed g (List.replicate (2 ^ g) ⟨0, 0⟩)) g = List.replicate (2 ^ g) ⟨0, 0⟩ := by
    refine eq_of_point_eq (by simp) fun i hi => ?_
    rw [stages_length, loadReversed_length] at hi
    rw [hstages i hi, point_replicate _ hi, spread, ite_self]
  rw [transform, hzeros, List.map_replicate, scaleOut_zero dir hg]

end Sys2Proof.Machine
end

section
/-! PROOFS. FFT and IFFT (R145 to R147): a transform is its load, stages and scaling, and the commands store it. -/

namespace Sys2Proof.Machine

/-- R145: the scale is exactly `1/N`. -/
theorem invScale_value {g : Nat} (h : g ≤ 8) : ((2 ^ 23 : Nat) : ℚ) * 2 ^ (126 - g) / 2 ^ 149 = 1 / 2 ^ g := by
  rw [div_eq_div_iff (by positivity) (by positivity), one_mul, Nat.cast_pow, Nat.cast_ofNat,
    ← pow_add, ← pow_add]
  congr 1
  omega

/-- R145: a transform as its load, its stages in order, and the scaling of the inverse. -/
theorem transform_eq_load_stages_scale (dir : Dir) (g : Nat) (x : List Cplx) :
    ∃ ys : Nat → List Cplx, ys 0 = loadReversed g x ∧ (∀ st, st < g → ys (st + 1) = stage dir g (st + 1) (ys st)) ∧
      transform dir g x = match dir with
        | .fwd => ys g
        | .inv => (ys g).map fun z => ⟨fmul z.re (invScale g), fmul z.im (invScale g)⟩ := by
  refine ⟨stages dir g (loadReversed g x), rfl, fun _ _ => rfl, ?_⟩
  cases dir with
  | fwd => exact transform_fwd g x
  | inv => exact transform_inv g x

theorem toBins_readBlock_eq (bd : Build) (m : Memory) (b : Nat) :
    toBins (readBlock bd m b) = (List.range bd.N).map (readBin m b) := by
  refine eq_of_point_eq (by simp) fun i hi => ?_
  rw [toBins_readBlock_length] at hi
  rw [point, toBins_readBlock bd m b i hi]
  simp [point, hi]

/-- R146, R147: a command that replaces its block by its transform stores the bins of the transform, completes and
changes nothing else. -/
theorem exec_of_xform {i : Instr} {s : State} {blk : BlockIdx} {dir : Dir}
    (hok : operandError s.build s.activeBank i = none)
    (heffect : commandEffect i s
      = setBlock blk.toNat (xform s.build dir (readBlock s.build s.mem blk.toNat)) s) :
    ∃ t, exec i s = .next t ∧
      t = { s with
        mem := t.mem, pending := none, busy := false, wait := none, intStatus := s.intStatus ||| 0x01 } ∧
      (∀ k, k < s.build.N →
        readBin t.mem blk.toNat k
          = point (transform dir s.build.log2N ((List.range s.build.N).map (readBin s.mem blk.toNat))) k) ∧
      ∀ a, inBlockWords blk.toNat s.build.L a = false → readByte t.mem a = readByte s.mem a := by
  obtain ⟨t, hexec, hstate, hwords, hframe⟩ := exec_of_setBlock hok heffect (xform_length ..)
  refine ⟨t, hexec, hstate, fun k hk => ?_, hframe⟩
  rw [readBin_of_words (xform_length ..) hwords hk, xform, toBins_ofBins, toBins_readBlock_eq, point]

/-- Settles O37: the two commands differ in the direction alone. -/
theorem transformCommandsReplaceTheirBlock : Obligations.TransformCommandsReplaceTheirBlock := by
  refine ⟨fun g _ hg => ⟨invScale g, 2 ^ 23, 126 - g, classify_invScale hg, invScale_value hg, ?_, fun dir x =>
    transform_eq_load_stages_scale dir g x⟩, fun s blk dir hblk hbank => ?_⟩
  · rintro rfl
    rfl
  · cases dir with
    | fwd => exact exec_of_xform (operandError_eq_none_of_dest rfl (by simpa [Instr.blocks] using hblk) hbank) rfl
    | inv => exact exec_of_xform (operandError_eq_none_of_dest rfl (by simpa [Instr.blocks] using hblk) hbank) rfl

end Sys2Proof.Machine
end

section
/-! PROOFS. The ROM as the spec's table, and the forward transforms of impulses and of the constant 1 (R141, R148). -/

namespace Sys2Proof.Machine

/-! ### Butterflies with a nonzero lower operand -/

/-- R143: the twiddle of index 0 is 1, which leaves a real value as it is. -/
theorem rotate_fwd_zero_real (g : Nat) {w : Word} (h : Plain w) : rotate .fwd g 0 ⟨w, 0⟩ = ⟨w, 0⟩ := by
  obtain ⟨z, hz⟩ : ∃ z, fmul (zero false) w = zero z := ⟨_, fmul_zero_left h.1 false⟩
  have hre : fadd (fmul w 0x3F800000) (fmul (zero false) (zero false)) = w := by
    rw [fmul_comm w, fmul_one_left h.1, fmul_zero_left (by decide), fadd_zero_right h]
  have him : fsub (fmul (zero false) 0x3F800000) (fmul w (zero false)) = zero false := by
    rw [fmul_comm w, hz, fmul_zero_left (by decide)]
    exact fsub_zero_right plain_zero z
  rw [rotate, twc_zero, tws_zero]
  exact congrArg₂ Cplx.mk hre him

/-- R143: the twiddle of index 0 on two equal real values doubles one and cancels the other. -/
theorem bfly_fwd_zero_equal (g : Nat) {v w : Word} (hv : Plain v) (hadd : fadd v v = w) :
    bfly .fwd g 0 ⟨v, 0⟩ ⟨v, 0⟩ = (⟨w, 0⟩, ⟨0, 0⟩) := by
  have hzero : fadd 0 0 = 0 ∧ fsub 0 0 = 0 := ⟨fadd_zero_right plain_zero false, fsub_self plain_zero⟩
  rw [bfly, rotate_fwd_zero_real g hv]
  simp only [bflyUpper, bflyLower, hadd, fsub_self hv, hzero]
  rfl

/-- R143: the twiddle of index 0 on 0 and 1 gives 1 and -1. -/
theorem bfly_fwd_zero_one (g : Nat) :
    bfly .fwd g 0 ⟨0, 0⟩ ⟨0x3F800000, 0⟩ = (⟨0x3F800000, 0⟩, ⟨0xBF800000, 0⟩) := by
  rw [bfly, rotate_fwd_zero_real g plain_one]
  decide +kernel

/-- R143: a butterfly on 0 and 1 gives the conjugate of its twiddle. -/
theorem bfly_fwd_upper_one {g k : Nat} (hs : tws g k ≠ 0) :
    (bfly .fwd g k ⟨0, 0⟩ ⟨0x3F800000, 0⟩).1 = ⟨twc g k, tws g k ^^^ 0x80000000⟩ := by
  have hc := plain_twc g k
  obtain ⟨hfin, hnonneg⟩ := tws_finite_nonneg g k
  have hneg : Plain (fneg (tws g k)) := by
    rw [fneg_of_finite hfin]
    refine ⟨by rwa [biasedExp_flip], fun h => hs ?_⟩
    exact (BitVec.xor_left_inj (0x80000000 : Word)).1 h
  have hre : fadd (zero false) (fadd (fmul 0x3F800000 (twc g k)) (fmul (zero false) (tws g k))) = twc g k := by
    rw [fmul_one_left hc.1, fmul_zero_left hfin, fadd_zero_right hc, fadd_zero_left hc]
  have him : fadd (zero false) (fsub (fmul (zero false) (twc g k)) (fmul 0x3F800000 (tws g k)))
      = tws g k ^^^ 0x80000000 := by
    rw [fmul_one_left hfin, fmul_zero_left hc.1, fsub, fadd_zero_left hneg, fadd_zero_left hneg, fneg_of_finite hfin]
  exact congrArg₂ Cplx.mk hre him

/-! ### Impulses -/

/-- The unit impulse at point `n` of `2 ^ g`. -/
def impulse (g n : Nat) : List Cplx := (List.replicate (2 ^ g) ⟨0, 0⟩).set n ⟨0x3F800000, 0⟩

theorem plainBin_one : PlainBin ⟨0x3F800000, 0⟩ := ⟨plain_one, plain_zero⟩

/-- R145: the load puts the impulse at the reversal of its point. -/
theorem point_load_impulse {g n : Nat} (hn : n < 2 ^ g) :
    ∀ i, i < 2 ^ g →
      point (loadReversed g (impulse g n)) i = spread (bitRev g n) 0 (fun _ => ⟨0x3F800000, 0⟩) i := by
  intro i hi
  rw [point_loadReversed _ hi, spread, impulse, pow_zero]
  by_cases hin : bitRev g i = n
  · have := (bitRev_eq_iff hi hn).1 hin
    rw [if_pos (by omega), hin, point_set_same _ (by rwa [List.length_replicate])]
  · have := mt (bitRev_eq_iff hi hn).2 hin
    rw [if_neg (by omega), point_set_other _ (Ne.symm hin), point_replicate _ (bitRev_lt g i)]

theorem bitRev_zero (g : Nat) : bitRev g 0 = 0 := by
  induction g with
  | zero => rfl
  | succ g ih => rw [bitRev, ih]; simp

/-- Reversal takes point 1 to the middle. -/
theorem bitRev_one {g : Nat} (hg : 1 ≤ g) : bitRev g 1 = 2 ^ (g - 1) := by
  obtain ⟨g, rfl⟩ := Nat.exists_eq_add_of_le' hg
  rw [bitRev, bitRev_zero]
  simp

theorem bitRev_half {g : Nat} (hg : 1 ≤ g) : bitRev g (2 ^ (g - 1)) = 1 := by
  rw [← bitRev_one hg, bitRev_bitRev (Nat.one_lt_two_pow (by omega))]

/-- R148 item 1: every stage repeats the impulse at point 0. -/
theorem transform_impulse_zero (g : Nat) :
    transform .fwd g (impulse g 0) = List.replicate (2 ^ g) ⟨0x3F800000, 0⟩ := by
  have hload := point_load_impulse (g := g) (Nat.two_pow_pos g)
  rw [bitRev_zero] at hload
  have hall := point_stages_spread (dir := .fwd) (Nat.zero_le g) le_rfl (loadReversed_length g _) (Nat.dvd_zero _)
    (fun _ => plainBin_one) (fun _ => rfl) hload
  refine eq_of_point_eq (by simp) fun i hi => ?_
  rw [transform_length] at hi
  rw [transform_fwd, hall i hi, point_replicate _ hi, spread, if_pos (by omega)]

/-- The pattern that the impulse at point `N/2` transforms to. -/
def alternating (k : Nat) : Cplx := if k % 2 = 0 then ⟨0x3F800000, 0⟩ else ⟨0xBF800000, 0⟩

theorem plainBin_alternating (k : Nat) : PlainBin (alternating k) := by
  unfold alternating; split_ifs <;> decide

theorem periodic_alternating : Function.Periodic alternating (2 ^ 1) := fun k => by
  simp [alternating]

/-- R148 item 2: the first stage makes the alternating pair, and every other stage repeats it. -/
theorem transform_impulse_half {g k : Nat} (hg : 1 ≤ g) (hk : k < 2 ^ g) :
    point (transform .fwd g (impulse g (2 ^ (g - 1)))) k = alternating k := by
  have hload := point_load_impulse (g := g) (n := 2 ^ (g - 1)) (Nat.pow_lt_pow_right (by omega) (by omega))
  rw [bitRev_half hg] at hload
  have hfirst : ∀ i, i < 2 ^ g →
      point (stages .fwd g (loadReversed g (impulse g (2 ^ (g - 1)))) 1) i = spread 0 1 alternating i := by
    refine point_stage_of_bfly hg (loadReversed_length g _) hload fun q j hj => ?_
    obtain rfl : j = 0 := Nat.lt_one_iff.1 hj
    rw [Nat.zero_mul]
    obtain rfl | hq := Nat.eq_zero_or_pos q
    · exact bfly_fwd_zero_one g
    · simp only [spread, Nat.zero_add, pow_zero, pow_one]
      rw [if_neg (by omega), if_neg (by omega), if_neg (by omega), if_neg (by omega)]
      exact bfly_lower_zero _ _ _ plainBin_zero
  have hall := point_stages_spread hg le_rfl (loadReversed_length g _) (Nat.dvd_zero _) plainBin_alternating
    periodic_alternating hfirst
  rw [transform_fwd, hall k hk, spread, if_pos (by omega)]

/-- R148 item 4: the last stage alone has the impulse at point 1 among its lower operands, and on all of them. -/
theorem transform_impulse_one {g k : Nat} (hg : 1 ≤ g) (hk : k < 2 ^ (g - 1)) :
    point (transform .fwd g (impulse g 1)) k = (bfly .fwd g k ⟨0, 0⟩ ⟨0x3F800000, 0⟩).1 := by
  have hload := point_load_impulse (g := g) (n := 1) (Nat.one_lt_two_pow (by omega))
  rw [bitRev_one hg] at hload
  obtain ⟨n, rfl⟩ := Nat.exists_eq_add_of_le' hg
  rw [Nat.add_sub_cancel] at hk hload
  have hall := point_stages_spread (dir := .fwd) (Nat.zero_le n) (Nat.le_succ n) (loadReversed_length (n + 1) _)
    dvd_rfl (fun _ => plainBin_one) (fun _ => rfl) hload
  have hm := Nat.two_pow_succ n
  have hpair := operands_stage .fwd (g := n + 1) (st := n + 1) (q := 0) (j := k)
    (y := stages .fwd (n + 1) (loadReversed (n + 1) (impulse (n + 1) 1)) n) (by omega) le_rfl (by simp)
    (by positivity) (by simpa using hk)
  rw [Nat.add_sub_cancel, Nat.sub_self, pow_zero, Nat.mul_one, Nat.zero_mul, Nat.zero_add, hall _ (by omega),
    hall _ (by omega), spread, spread, if_neg (by omega), if_pos (by omega)] at hpair
  have hupper := congrArg Prod.fst hpair
  rw [operands, Nat.zero_add] at hupper
  rw [transform_fwd]
  exact hupper

/-! ### The constant 1 -/

/-- The pattern of `2 ^ n`. -/
def powTwo (n : Nat) : Word := BitVec.ofNat 32 ((127 + n) * 2 ^ 23)

theorem classify_powTwo {n : Nat} (h : n ≤ 8) : classify (powTwo n) = .finite false (2 ^ 23) (126 + n) := by
  rw [powTwo, classify_of_exponent (by omega) (by omega)]
  congr 1
  omega

theorem plain_powTwo {n : Nat} (h : n ≤ 8) : Plain (powTwo n) := by
  obtain ⟨hs, he, -⟩ := parts_of_exponent (e := 127 + n) (by omega)
  refine ⟨by rw [powTwo, he]; omega, fun hz => ?_⟩
  rw [← powTwo, hz] at hs
  exact absurd hs (by decide)

/-- `2 ^ n` at the multiples of `2 ^ n`, and zero elsewhere: the constant 1 after `n` stages. -/
def comb (n i : Nat) : Cplx := if i % 2 ^ n = 0 then ⟨powTwo n, 0⟩ else ⟨0, 0⟩

/-- R143: a stage doubles the teeth of the comb at even places and cancels those at odd ones. -/
theorem point_stage_comb {g n : Nat} {y : List Cplx} (hn : n < g) (hg : g ≤ 8) (hlen : y.length = 2 ^ g)
    (hy : ∀ i, i < 2 ^ g → point y i = comb n i) :
    ∀ i, i < 2 ^ g → point (stage .fwd g (n + 1) y) i = comb (n + 1) i := by
  refine point_stage_of_bfly hn hlen hy fun q j hj => ?_
  have hm : 2 ^ (n + 1) = 2 ^ n * 2 := pow_succ 2 n
  have hmod : (q * 2 ^ (n + 1) + j) % 2 ^ n = j ∧ (q * 2 ^ (n + 1) + j + 2 ^ n) % 2 ^ n = j := by
    rw [Nat.add_mod_right, hm, Nat.mul_left_comm, Nat.mul_add_mod, Nat.mod_eq_of_lt hj]
    exact ⟨rfl, rfl⟩
  have hmod' : (q * 2 ^ (n + 1) + j) % 2 ^ (n + 1) = j ∧
      (q * 2 ^ (n + 1) + j + 2 ^ n) % 2 ^ (n + 1) = j + 2 ^ n := by
    rw [Nat.add_assoc, Nat.mul_add_mod_of_lt, Nat.mul_add_mod_of_lt]
    all_goals omega
  simp only [comb, hmod, hmod']
  by_cases hj0 : j = 0
  · subst hj0
    have hadd : fadd (powTwo n) (powTwo n) = powTwo (n + 1) :=
      fadd_self (by positivity) (classify_powTwo (by omega)) (classify_powTwo (by omega))
    rw [Nat.zero_mul, if_pos rfl, if_pos rfl, if_neg (by have := Nat.two_pow_pos n; omega)]
    exact bfly_fwd_zero_equal g (plain_powTwo (by omega)) hadd
  · rw [if_neg hj0, if_neg hj0, if_neg (by omega)]
    exact bfly_lower_zero _ _ _ plainBin_zero

theorem point_stages_comb {g n : Nat} {y : List Cplx} (hn : n ≤ g) (hg : g ≤ 8) (hlen : y.length = 2 ^ g)
    (hy : ∀ i, i < 2 ^ g → point y i = comb 0 i) :
    ∀ i, i < 2 ^ g → point (stages .fwd g y n) i = comb n i := by
  induction n with
  | zero => exact hy
  | succ n ih => exact point_stage_comb hn hg (by rwa [stages_length]) (ih (by omega))

/-- R148 item 3: after all stages one tooth is left. -/
theorem transform_constant_one {g : Nat} (hg : g ≤ 8) :
    transform .fwd g (List.replicate (2 ^ g) ⟨0x3F800000, 0⟩)
      = (List.replicate (2 ^ g) ⟨0, 0⟩).set 0 ⟨powTwo g, 0⟩ := by
  have hload : ∀ i, i < 2 ^ g → point (loadReversed g (List.replicate (2 ^ g) ⟨0x3F800000, 0⟩)) i = comb 0 i :=
    fun i hi => by
      rw [point_loadReversed _ hi, point_replicate _ (bitRev_lt g i), comb, pow_zero, if_pos (Nat.mod_one i)]
      rfl
  refine eq_of_point_eq (by simp) fun i hi => ?_
  rw [transform_length] at hi
  rw [transform_fwd, point_stages_comb le_rfl hg (loadReversed_length g _) hload i hi, comb, Nat.mod_eq_of_lt hi]
  split_ifs with h0
  · subst h0
    rw [point_set_same _ (by rwa [List.length_replicate])]
  · rw [point_set_other _ (Ne.symm h0), point_replicate _ hi]

/-! ### The spec's table -/

/-- R141: the symmetries of the table. -/
theorem twiddle_symmetries : ∀ k, k < 64 → 1 ≤ k →
    tws 8 (64 - k) = twc 8 k ∧ tws 8 (64 + k) = twc 8 k ∧ twc 8 (128 - k) = twc 8 k ^^^ 0x80000000 := by
  decide +kernel

/-- Settles O58: the table by evaluation, and the four transforms at every size. -/
theorem twiddleRomAndImpulseTransforms : Obligations.TwiddleRomAndImpulseTransforms := by
  refine ⟨⟨by decide, by decide, by decide, by decide, by decide +kernel,
    fun k h1 h63 => twiddle_symmetries k (by omega) h1, fun g k _ _ _ => twiddle_eq g k⟩, fun g hg hg8 => ?_⟩
  refine ⟨transform_impulse_zero g, fun k hk => transform_impulse_half hg hk, transform_constant_one hg8, ?_,
    fun k h1 hk => ?_⟩
  · exact (transform_impulse_one hg (by positivity)).trans (congrArg Prod.fst (bfly_fwd_zero_one g))
  · exact (transform_impulse_one hg hk).trans (bfly_fwd_upper_one (tws_ne_zero hg hg8 h1 hk))

end Sys2Proof.Machine
end

section
/-! PROOFS. COMMIT (R162): clearing the history stores +0.0 in every FDL slot and in OVL and touches no other byte. -/

namespace Sys2Proof.Machine

/-- Storing a whole block changes no byte outside its words. -/
theorem readByte_writeBlock_of_not_inBlockWords {bd : Build} {b a : Nat} {ws : List Word} (m : Memory)
    (hlen : ws.length = bd.L) (ha : inBlockWords b bd.L a = false) : readByte (writeBlock m b ws) a = readByte m a := by
  have hout := mt (inBlockWords_iff b bd.L a).2 (Bool.eq_false_iff.1 ha)
  exact readByte_writeBlock_outside m b a ws (by omega)

theorem readWord_writeBlock_zeroBlock {bd : Build} {w : Nat} (m : Memory) (b : Nat) (hw : w < bd.L) :
    readWord (writeBlock m b (zeroBlock bd)) (elmAddr b w) = 0 := by
  rw [readWord_writeBlock_same m b w _ (by rwa [zeroBlock_length]), zeroBlock, List.getD_replicate _ hw]

/-- Clearing a block changes no word of another one. -/
theorem readWord_writeBlock_zeroBlock_other {bd : Build} {b c w : Nat} (m : Memory) (hw : w < bd.L) (hbc : c ≠ b) :
    readWord (writeBlock m b (zeroBlock bd)) (elmAddr c w) = readWord m (elmAddr c w) :=
  readWord_writeBlock_other m b c w _ ((zeroBlock_length bd).trans_le bd.L_le) (hw.trans_le bd.L_le) hbc

theorem readWord_clearSlots {bd : Build} {n i w : Nat} (m : Memory) (hi : i < n) (hw : w < bd.L) :
    readWord (clearSlots bd m n) (elmAddr (fdlBlock bd i) w) = 0 := by
  induction n with
  | zero => exact absurd hi (Nat.not_lt_zero i)
  | succ n ih =>
    rw [clearSlots]
    by_cases hlast : i = n
    · subst hlast
      exact readWord_writeBlock_zeroBlock _ _ hw
    · have hne : fdlBlock bd i ≠ fdlBlock bd n := by simp only [fdlBlock]; omega
      rw [readWord_writeBlock_zeroBlock_other _ hw hne]
      exact ih (by omega)

theorem readByte_clearSlots_outside {bd : Build} {n a : Nat} (m : Memory)
    (ha : ∀ i, i < n → inBlockWords (fdlBlock bd i) bd.L a = false) :
    readByte (clearSlots bd m n) a = readByte m a := by
  induction n with
  | zero => rfl
  | succ n ih =>
    rw [clearSlots, readByte_writeBlock_of_not_inBlockWords _ (zeroBlock_length bd) (ha n n.lt_succ_self)]
    exact ih fun i hi => ha i (by omega)

/-- R162, R187: every word of every FDL slot is +0.0; OVL, cleared after them, is none of them. -/
theorem readWord_clearHistory_fdl {bd : Build} {i w : Nat} (m : Memory) (hi : i < bd.P) (hw : w < bd.L) :
    readWord (clearHistory bd m) (elmAddr (fdlBlock bd i) w) = 0 := by
  have hne : fdlBlock bd i ≠ ovlBlock bd := by simp only [fdlBlock, ovlBlock]; omega
  rw [clearHistory, readWord_writeBlock_zeroBlock_other _ hw hne, readWord_clearSlots m hi hw]

/-- R162, R187: every word of OVL is +0.0. -/
theorem readWord_clearHistory_ovl {bd : Build} {w : Nat} (m : Memory) (hw : w < bd.L) :
    readWord (clearHistory bd m) (elmAddr (ovlBlock bd) w) = 0 :=
  readWord_writeBlock_zeroBlock _ _ hw

/-- R162, R187: no byte outside the FDL slots and OVL changes. -/
theorem readByte_clearHistory_outside {bd : Build} {a : Nat} (m : Memory)
    (hfdl : ∀ i, i < bd.P → inBlockWords (fdlBlock bd i) bd.L a = false)
    (hovl : inBlockWords (ovlBlock bd) bd.L a = false) : readByte (clearHistory bd m) a = readByte m a := by
  rw [clearHistory, readByte_writeBlock_of_not_inBlockWords _ (zeroBlock_length bd) hovl,
    readByte_clearSlots_outside m hfdl]

/-- Settles O39: COMMIT has no operand to check, and its effect is the toggle and the cleared history. -/
theorem commitSwapsBanksAndClearsHistory : Obligations.CommitSwapsBanksAndClearsHistory := fun s =>
  ⟨complete (commandEffect .commit s), exec_eq_complete rfl, rfl,
    fun _ _ hi hw => readWord_clearHistory_fdl s.mem hi hw, fun _ hw => readWord_clearHistory_ovl s.mem hw,
    fun _ hfdl hovl => readByte_clearHistory_outside s.mem hfdl hovl⟩

end Sys2Proof.Machine
end

section
/-! PROOFS. PART (R161): the zero half and the samples read are the input of the forward transform that is stored. -/

namespace Sys2Proof.Machine

/-- R161: PART's input as points: `B` zeros, then the first `B` words of the source as real points. -/
theorem toBins_partInput (s : State) (b : Nat) :
    toBins (partInput s.build (readWords s.mem (elmAddr b 0) s.build.B))
      = (List.range s.build.N).map fun n =>
          if n < s.build.B then ⟨0, 0⟩ else ⟨elmWord s b (n - s.build.B), 0⟩ := by
  rw [partInput, toBins_ofBins, realPoints, readWords_eq, Build.N_eq, two_mul, List.range_add, List.map_append,
    List.map_map, List.map_map]
  refine congrArg₂ (· ++ ·) (List.eq_replicate_iff.2 ⟨by simp, fun z hz => ?_⟩).symm ?_
  · obtain ⟨n, hn, rfl⟩ := List.mem_map.1 hz
    exact if_pos (List.mem_range.1 hn)
  · simp [Function.comp_def, elmWord, ← elmAddr_word]

/-- Settles O38: the stored block is the transform of the input read before the store, so the destination may be the
source. -/
theorem partTransformsZeroPaddedSamples : Obligations.PartTransformsZeroPaddedSamples := by
  intro s dst src hdst hsrc hbank x
  have hok : operandError s.build s.activeBank (.part dst src) = none :=
    operandError_eq_none_of_dest rfl (by simpa [Instr.blocks] using ⟨hdst, hsrc⟩) hbank
  obtain ⟨t, hexec, hstate, hwords, hframe⟩ := exec_of_setBlock hok rfl (xform_length ..)
  refine ⟨t, hexec, hstate, fun k hk => ?_, hframe⟩
  rw [readBin_of_words (xform_length ..) hwords hk, xform, toBins_ofBins, toBins_partInput, point]

end Sys2Proof.Machine
end

section
/-! PROOFS. The active bank (R162, R165): of the commands only COMMIT changes it, and of the host's operations only the
platform's reset. -/

namespace Sys2Proof.Machine

/-- R181: no way of a TICK changes the active bank. -/
@[simp] theorem tickEffect_activeBank (s : State) : (tickEffect s).activeBank = s.activeBank := by
  unfold tickEffect
  split_ifs <;> simp

/-- R162, R165: no effect of another command changes the active bank. -/
theorem commandEffect_activeBank {i : Instr} (s : State) (hi : i ≠ .commit) :
    (commandEffect i s).activeBank = s.activeBank := by
  cases i with
  | nop | clrstate => rfl
  | clear | copy | cmac | fft | ifft | part => exact setBlock_activeBank _ _ s
  | tick => exact tickEffect_activeBank s
  | commit => exact absurd rfl hi

theorem exec_activeBank {i : Instr} {s t : State} (h : exec i s = .next t) (hi : i ≠ .commit) :
    t.activeBank = s.activeBank := by
  rw [exec_eq_perform] at h
  obtain ⟨-, rfl⟩ | ⟨e, -, rfl⟩ := perform_cases i _ s t h
  · rw [complete_activeBank, commandEffect_activeBank s hi]
  · exact abandon_activeBank e _ s

@[simp] theorem writeReg_activeBank (r : Reg) (v : Word) (s : State) : (writeReg r v s).activeBank = s.activeBank := by
  cases r with
  | cmd =>
    change (issue v s).activeBank = _
    obtain ⟨-, heq⟩ | ⟨e, -, heq⟩ := issue_cases v s <;> simp [heq]
  | intStatus => exact clearIntStatus_activeBank v s
  | ctrl | gain | intEnable | audioAvail => rfl
  | id | param | status | cursor | errCode | errCmd | tickCount | skipCount => rfl

theorem hostWrite_activeBank (size a : Nat) (v : Word) (s : State) :
    (hostWrite size a v s).activeBank = s.activeBank := by
  cases ht : accessTarget s true size a with
  | none => rw [hostWrite_refused size a v s ht, respond_activeBank]
  | some t =>
    rw [hostWrite_admitted size a v s t ht, respond_activeBank]
    cases t with
    | reg r => exact writeReg_activeBank r v s
    | audio | elm => rfl

theorem hostOp_activeBank {op : HostOp} (s : State) (hop : op ≠ .reset) :
    (hostOp op s).activeBank = s.activeBank := by
  obtain ⟨size, a, -, heq⟩ | ⟨size, a, v, -, heq⟩ | ⟨-, r, heq⟩ | ⟨hreset, -⟩ := hostOp_cases op s
  · obtain ⟨r, hr⟩ := hostRead_eq_respond size a s
    rw [heq, hr, respond_activeBank]
  · rw [heq, hostWrite_activeBank]
  · rw [heq, respond_activeBank]
  · exact absurd hreset hop

/-- R165: the host changes the active bank by the platform's reset alone. -/
theorem hostStep_activeBank {s : State} (h : s.host.head? ≠ some .reset) :
    (hostStep s).activeBank = s.activeBank := by
  unfold hostStep
  split
  · rfl
  · next op rest hhost =>
    have hop : op ≠ .reset := by rintro rfl; exact h (by rw [hhost]; rfl)
    rw [hostOp_activeBank _ hop, countDown_activeBank]

/-- Settles O28: of all that a step can do outside INIT, COMMIT alone changes the active bank, and its word is the
encoding of COMMIT (O1). -/
theorem onlyCommitSwapsTheBanks : Obligations.OnlyCommitSwapsTheBanks := by
  intro s t hinit hhost hstep hbank
  refine ⟨?_, Bool.eq_not_of_ne hbank⟩
  obtain ⟨-, hinInit, -⟩ | ⟨-, -, c, i, hpending, hdecode, hexec⟩ | ⟨-, rfl⟩ := step_cases s t hstep
  · exact Bool.noConfusion (hinit.symm.trans hinInit)
  · have hcommit : i = .commit := by_contra fun hi => hbank (exec_activeBank hexec hi)
    subst hcommit
    rw [hpending, ← (decodeAndEncodeAgree c .commit).1 hdecode]
    rfl
  · exact absurd (hostStep_activeBank hhost) hbank

end Sys2Proof.Machine
end

section
/-! PROOFS. CLRSTATE and the cursor (R187, R188). -/

namespace Sys2Proof.Machine

/-- Settles O40: CLRSTATE has no operand to check, and its effect is the cleared history and the cursor at 0. -/
theorem clrstateClearsHistoryAndCursor : Obligations.ClrstateClearsHistoryAndCursor := fun s =>
  ⟨complete (commandEffect .clrstate s), exec_eq_complete rfl, rfl,
    fun _ _ hi hw => readWord_clearHistory_fdl s.mem hi hw, fun _ hw => readWord_clearHistory_ovl s.mem hw,
    fun _ hfdl hovl => readByte_clearHistory_outside s.mem hfdl hovl⟩

/-- R182 step (f): the cursor register is wide enough for every `P`. -/
theorem nextCursor_toNat (bd : Build) (c : BitVec 8) : (nextCursor bd c).toNat = (c.toNat + 1) % bd.P := by
  have hlt : (c.toNat + 1) % bd.P < bd.P := Nat.mod_lt _ bd.P_pos
  have hP := bd.P_le
  rw [nextCursor, BitVec.toNat_ofNat, Nat.mod_eq_of_lt (by omega)]

/-- R188: advancing the cursor `n` times adds `n` to it modulo `P`. -/
theorem nextCursor_iterate_toNat {bd : Build} {c : BitVec 8} (hc : c.toNat < bd.P) (n : Nat) :
    ((nextCursor bd)^[n] c).toNat = (c.toNat + n) % bd.P := by
  induction n with
  | zero => exact (Nat.mod_eq_of_lt hc).symm
  | succ n ih => rw [Function.iterate_succ_apply', nextCursor_toNat, ih, Nat.mod_add_mod, Nat.add_assoc]

/-- Settles O46: `P` more is the same modulo `P`. -/
theorem cursorWrapsAfterAllPartitions : Obligations.CursorWrapsAfterAllPartitions := fun bd c hc =>
  BitVec.eq_of_toNat_eq (by rw [nextCursor_iterate_toNat hc, Nat.add_mod_right, Nat.mod_eq_of_lt hc])

end Sys2Proof.Machine
end

section
/-! PROOFS. Blocks and audio buffers read back after a store: the stored words and samples where they were stored, and
the old ones in every other block and buffer (R12, R47, R76, R77). -/

namespace Sys2Proof.Machine

/-! ### Blocks -/

/-- R12: a block as the list of its words. -/
theorem readBlock_eq (bd : Build) (m : Memory) (b : Nat) :
    readBlock bd m b = (List.range bd.L).map fun w => readWord m (elmAddr b w) := by
  rw [readBlock, readWords_eq]
  exact List.map_congr_left fun w _ => by rw [elmAddr_word b w]

theorem readBlock_congr {bd : Build} {m n : Memory} {b c : Nat}
    (h : ∀ w, w < bd.L → readWord m (elmAddr b w) = readWord n (elmAddr c w)) :
    readBlock bd m b = readBlock bd n c := by
  rw [readBlock_eq, readBlock_eq]
  exact List.map_congr_left fun w hw => h w (List.mem_range.1 hw)

/-- A block just stored whole reads back as what was stored. -/
theorem readBlock_writeBlock_same {bd : Build} {ws : List Word} (m : Memory) (b : Nat) (hlen : ws.length = bd.L) :
    readBlock bd (writeBlock m b ws) b = ws := by
  refine List.ext_getElem (by rw [readBlock_length, hlen]) fun w hw hw' => ?_
  rw [readBlock_length] at hw
  rw [← List.getD_eq_getElem _ 0, ← List.getD_eq_getElem _ 0, readBlock_getD _ _ _ _ hw,
    readWord_writeBlock_same m b w ws hw']

/-- Storing in one block leaves every other block alone. -/
theorem readBlock_writeBlock_other {bd : Build} {b c : Nat} {ws : List Word} (m : Memory) (hlen : ws.length ≤ bd.L)
    (hbc : c ≠ b) : readBlock bd (writeBlock m b ws) c = readBlock bd m c :=
  readBlock_congr fun w hw =>
    readWord_writeBlock_other m b c w ws (hlen.trans bd.L_le) (hw.trans_le bd.L_le) hbc

/-- The audio buffers are none of the blocks. -/
theorem readBuffer_writeBlock (bd : Build) (m : Memory) (b : Nat) (ws : List Word) (x : AudioBuf) :
    readBuffer bd (writeBlock m b ws) x = readBuffer bd m x := by
  have hbelow : ∀ y, y < elmBase → readByte (writeBlock m b ws) y = readByte m y := fun y hy =>
    readByte_writeBlock_outside m b y ws (.inl (hy.trans_le (by simp only [elmAddr]; omega)))
  rw [readBuffer, readBuffer, readSamples_eq, readSamples_eq]
  refine List.map_congr_left fun k hk => ?_
  obtain ⟨-, hhigh, -⟩ := audioAddr_bounds x (List.mem_range.1 hk)
  simp only [audioAddr, elmBase] at hhigh hbelow ⊢
  rw [readSample, readSample, hbelow _ (by omega), hbelow _ (by omega)]

/-! ### Audio buffers -/

theorem audioAddr_sample (x : AudioBuf) (k : Nat) : audioAddr x k = audioAddr x 0 + 4 * k := rfl

/-- R76: the two stored byte lanes of a sample among the host words of a run. -/
theorem getD_sampleWords (xs : List Sample) {i j : Nat} (hj : j < 2) (hi : i < xs.length) :
    (xs.flatMap fun x => sampleBytes x ++ [Memory.unlisted, Memory.unlisted]).getD (4 * i + j) Memory.unlisted
      = (sampleBytes (xs.getD i 0)).getD j Memory.unlisted := by
  induction xs generalizing i with
  | nil => exact absurd hi (Nat.not_lt_zero i)
  | cons x xs ih =>
    rw [List.flatMap_cons]
    cases i with
    | zero =>
      rw [Nat.mul_zero, Nat.zero_add, List.append_assoc, List.getD_append _ _ _ _ hj, List.getD_cons_zero]
    | succ i =>
      have hlanes : (sampleBytes x ++ [Memory.unlisted, Memory.unlisted]).length = 4 := rfl
      rw [List.getD_append_right _ _ _ _ (by omega), hlanes, show 4 * (i + 1) + j - 4 = 4 * i + j by omega,
        ih (Nat.lt_of_succ_lt_succ hi), List.getD_cons_succ]

/-- R76: a sample is its two byte lanes. -/
theorem readSample_of_lanes {m : Memory} {a : Nat} {x : Sample}
    (h : ∀ j, j < 2 → readByte m (a + j) = (sampleBytes x).getD j Memory.unlisted) : readSample m a = x := by
  have hlow := h 0 (by omega)
  rw [Nat.add_zero] at hlow
  rw [readSample, hlow, h 1 (by omega)]
  exact (BitVec.extractLsb'_append_extractLsb'_eq_extractLsb' (by omega)).trans BitVec.extractLsb'_eq_self

/-- R76: a sample of a buffer just stored is the stored sample. -/
theorem readSample_writeBuffer_same {k : Nat} {xs : List Sample} (m : Memory) (x : AudioBuf) (hk : k < xs.length) :
    readSample (writeBuffer m x xs) (audioAddr x k) = xs.getD k 0 :=
  readSample_of_lanes fun j hj => by
    rw [writeBuffer, writeSamples, audioAddr_sample x k, Nat.add_assoc,
      readByte_writeBytes_inside _ _ _ _ (by rw [sampleWords_length]; omega), getD_sampleWords xs hj hk]

/-- A byte outside a buffer just stored is unchanged. -/
theorem readByte_writeBuffer_of_outside {bd : Build} {a : Nat} {x : AudioBuf} {xs : List Sample} (m : Memory)
    (hlen : xs.length = bd.B) (ha : inBuffer bd x a = false) : readByte (writeBuffer m x xs) a = readByte m a := by
  have hout : ¬ (audioAddr x 0 ≤ a ∧ a < audioAddr x 0 + 4 * bd.B) := by simpa [inBuffer] using ha
  exact readByte_writeBytes_outside _ _ _ _ (by rw [sampleWords_length]; omega)

/-- R76: the buffers do not meet. -/
theorem readSample_writeBuffer_other {bd : Build} {k : Nat} {x y : AudioBuf} {xs : List Sample} (m : Memory)
    (hlen : xs.length = bd.B) (hk : k < bd.B) (hxy : y ≠ x) :
    readSample (writeBuffer m x xs) (audioAddr y k) = readSample m (audioAddr y k) := by
  obtain ⟨i, -, hx, hpartx⟩ := audioBase_eq_part x
  obtain ⟨j, -, hy, hparty⟩ := audioBase_eq_part y
  have hij : i ≠ j := by rintro rfl; exact hxy (hparty.symm.trans hpartx)
  have hB := bd.B_le
  have hlane : ∀ l, l < 2 → readByte (writeBuffer m x xs) (audioAddr y k + l) = readByte m (audioAddr y k + l) :=
    fun l hl => readByte_writeBytes_outside _ _ _ _ (by
      rw [sampleWords_length, hlen]
      simp only [audioAddr, hx, hy]
      omega)
  rw [readSample, readSample, hlane 1 (by omega), ← Nat.add_zero (audioAddr y k), hlane 0 (by omega)]

/-- The blocks are none of the audio buffers. -/
theorem readWord_writeBuffer {bd : Build} {b w : Nat} {x : AudioBuf} {xs : List Sample} (m : Memory)
    (hlen : xs.length = bd.B) : readWord (writeBuffer m x xs) (elmAddr b w) = readWord m (elmAddr b w) := by
  obtain ⟨i, hi, hx, -⟩ := audioBase_eq_part x
  have hB := bd.B_le
  refine readWord_congr _ _ _ fun y hlow _ => readByte_writeBytes_outside _ _ _ _ (.inr ?_)
  rw [sampleWords_length, hlen]
  simp only [audioAddr, hx, elmAddr, elmBase] at hlow ⊢
  omega

end Sys2Proof.Machine
end

section
/-! PROOFS. The window and the slots of a convolution tick (R180, R182, R183, R200). -/

namespace Sys2Proof.Machine

/-! ### The window -/

theorem ofBins_append (x y : List Cplx) : ofBins (x ++ y) = ofBins x ++ ofBins y := by
  induction x with
  | nil => rfl
  | cons z x ih => rw [List.cons_append, ofBins, ofBins, ih, List.cons_append, List.cons_append]

/-- R12: the even words of a sequence of bins are the real parts, the odd words the imaginary parts. -/
theorem ofBins_map_range (f : Nat → Cplx) (n : Nat) :
    ofBins ((List.range n).map f)
      = (List.range (2 * n)).map fun w => if w % 2 = 0 then (f (w / 2)).re else (f (w / 2)).im := by
  induction n with
  | zero => rfl
  | succ n ih =>
    have heven : 2 * n % 2 = 0 ∧ 2 * n / 2 = n := by omega
    have hodd : (2 * n + 1) % 2 = 1 ∧ (2 * n + 1) / 2 = n := by omega
    rw [List.range_succ, List.map_append, ofBins_append, ih, show 2 * (n + 1) = 2 * n + 1 + 1 by omega,
      List.range_succ, List.range_succ]
    simp [ofBins, heven, hodd]

/-- R200: word `w` of the current samples, left even and right odd. -/
def currentWord (m : Memory) (w : Nat) : Word :=
  i2f (readSample m (audioAddr (if w % 2 = 0 then .inL else .inR) (w / 2)))

/-- R182 step (a), R200: the current samples, interleaved by channel. -/
theorem currentWords_eq (bd : Build) (m : Memory) :
    currentWords bd m = (List.range (2 * bd.B)).map (currentWord m) := by
  rw [currentWords, readBuffer, readBuffer, readSamples_eq, readSamples_eq, List.zipWith_map, List.zipWith_self,
    ofBins_map_range]
  refine List.map_congr_left fun w _ => ?_
  simp only [currentWord, ← audioAddr_sample]
  split <;> rfl

/-- R182 step (a): the window of a tick, from the memory before it. -/
def tickWindow (bd : Build) (m : Memory) : List Word := previousWords bd m ++ currentWords bd m

/-- R182: the window as a list of words, the overlap and then the current samples. -/
theorem tickWindow_eq (bd : Build) (m : Memory) :
    tickWindow bd m = (List.range bd.L).map fun w =>
      if w < 2 * bd.B then readWord m (elmAddr (ovlBlock bd) w) else currentWord m (w - 2 * bd.B) := by
  rw [tickWindow, previousWords, readWords_eq, currentWords_eq, show bd.L = 2 * bd.B + 2 * bd.B by
    have := bd.L_eq; omega, List.range_add, List.map_append, List.map_map]
  refine congrArg₂ (· ++ ·) (List.map_congr_left fun w hw => ?_) (List.map_congr_left fun w _ => ?_)
  · rw [if_pos (List.mem_range.1 hw), elmAddr_word _ w]
  · simp

theorem tickWindow_length (bd : Build) (m : Memory) : (tickWindow bd m).length = bd.L := by
  rw [tickWindow_eq, List.length_map, List.length_range]

/-- R182 step (c): the newest spectrum of a tick, from the memory before it. -/
def tickSpectrum (bd : Build) (m : Memory) : List Word := xform bd .fwd (tickWindow bd m)

theorem tickSpectrum_length (bd : Build) (m : Memory) : (tickSpectrum bd m).length = bd.L := xform_length ..

/-! ### The slots -/

/-- The number `i` below `c` on a circle of `P`. -/
theorem add_sub_mod_eq {c P i : Nat} (hc : c < P) (hpos : 0 < i) (hi : i ≤ P) :
    (c + P - i) % P = if i ≤ c then c - i else c + P - i := by
  split
  · rw [show c + P - i = c - i + P by omega, Nat.add_mod_right, Nat.mod_eq_of_lt (by omega)]
  · exact Nat.mod_eq_of_lt (by omega)

/-- R182, R183: the slot of the window `i` ticks old, in natural numbers. -/
theorem fdlSlot_eq (bd : Build) (c : BitVec 8) {i : Nat} (hi : i ≤ bd.P) :
    fdlSlot bd c i = (c.toNat + bd.P - i) % bd.P := by
  have hshift : (c.toNat : Int) - i = ((c.toNat + bd.P - i : Nat) : Int) - bd.P := by omega
  rw [fdlSlot, hshift, Int.sub_emod_right, ← Int.natCast_mod, Int.toNat_natCast]

/-- R182: the newest window goes to the slot at the cursor. -/
theorem fdlSlot_zero {bd : Build} {c : BitVec 8} (hc : c.toNat < bd.P) : fdlSlot bd c 0 = c.toNat := by
  rw [fdlSlot_eq bd c (Nat.zero_le _), Nat.sub_zero, Nat.add_mod_right, Nat.mod_eq_of_lt hc]

/-- R183: an older window is in another slot. -/
theorem fdlSlot_ne {bd : Build} {c : BitVec 8} {i : Nat} (hc : c.toNat < bd.P) (hpos : 0 < i) (hi : i < bd.P) :
    fdlSlot bd c i ≠ c.toNat := by
  rw [fdlSlot_eq bd c hi.le, add_sub_mod_eq hc hpos hi.le]
  split <;> omega

end Sys2Proof.Machine
end

section
/-! PROOFS. The kernel of a convolution tick (R182, R183): its stores in order, each value from the memory before the
tick, and so what every block holds after it. -/

namespace Sys2Proof.Machine

/-! ### Steps (a) to (c) -/

/-- R52: the overlap saved is at most a block. -/
theorem currentWords_length_le (bd : Build) (m : Memory) : (currentWords bd m).length ≤ bd.L := by
  have hL := bd.L_eq
  rw [currentWords_length]
  omega

/-- The memory after steps (a) to (c). -/
def filledMemory (bd : Build) (c : BitVec 8) (m : Memory) : Memory :=
  fillSlot bd c (saveOverlap bd (buildWindow bd m))

/-- R182 steps (a) to (c), as stores of values from the memory before the tick. -/
theorem filledMemory_eq {bd : Build} {c : BitVec 8} (m : Memory) (hc : c.toNat < bd.P) :
    filledMemory bd c m =
      writeBlock (writeBlock (writeBlock (writeBlock m (winBlock bd) (tickWindow bd m))
        (ovlBlock bd) (currentWords bd m)) (winBlock bd) (tickSpectrum bd m))
        (fdlBlock bd c.toNat) (tickSpectrum bd m) := by
  have hbuild : buildWindow bd m = writeBlock m (winBlock bd) (tickWindow bd m) := rfl
  have hcurrent : currentWords bd (buildWindow bd m) = currentWords bd m := by
    rw [currentWords, currentWords, hbuild, readBuffer_writeBlock, readBuffer_writeBlock]
  have hwindow : readBlock bd (saveOverlap bd (buildWindow bd m)) (winBlock bd) = tickWindow bd m := by
    rw [saveOverlap, hcurrent, readBlock_writeBlock_other _ (currentWords_length_le bd m)
      (by simp only [winBlock, ovlBlock]; omega), hbuild, readBlock_writeBlock_same _ _ (tickWindow_length bd m)]
  rw [filledMemory, fillSlot, xformBlock, hwindow, readBlock_writeBlock_same _ _ (xform_length ..), fdlSlot_zero hc,
    saveOverlap, hcurrent, hbuild]
  rfl

/-- R182: the blocks that steps (a) to (c) leave alone. -/
theorem readBlock_filledMemory_other {bd : Build} {c : BitVec 8} {b : Nat} (m : Memory) (hc : c.toNat < bd.P)
    (hwin : b ≠ winBlock bd) (hovl : b ≠ ovlBlock bd) (hslot : b ≠ fdlBlock bd c.toNat) :
    readBlock bd (filledMemory bd c m) b = readBlock bd m b := by
  rw [filledMemory_eq m hc, readBlock_writeBlock_other _ (tickSpectrum_length bd m).le hslot,
    readBlock_writeBlock_other _ (tickSpectrum_length bd m).le hwin,
    readBlock_writeBlock_other _ (currentWords_length_le bd m) hovl,
    readBlock_writeBlock_other _ (tickWindow_length bd m).le hwin]

/-- R183: the window `i` ticks old as the tick reads it, from the memory before the tick: the newest is its own. -/
def agedWindow (bd : Build) (c : BitVec 8) (m : Memory) (i : Nat) : List Word :=
  if i = 0 then tickSpectrum bd m else readBlock bd m (fdlBlock bd (fdlSlot bd c i))

theorem readBlock_filledMemory_slot {bd : Build} {c : BitVec 8} {i : Nat} (m : Memory) (hc : c.toNat < bd.P)
    (hi : i < bd.P) :
    readBlock bd (filledMemory bd c m) (fdlBlock bd (fdlSlot bd c i)) = agedWindow bd c m i := by
  rw [agedWindow]
  split
  · next hzero =>
    rw [hzero, fdlSlot_zero hc, filledMemory_eq m hc, readBlock_writeBlock_same _ _ (tickSpectrum_length bd m)]
  · next hpos =>
    have hlt := fdlSlot_lt bd c i
    have hne := fdlSlot_ne hc (Nat.pos_of_ne_zero hpos) hi
    exact readBlock_filledMemory_other m hc (by simp only [fdlBlock, winBlock]; omega)
      (by simp only [fdlBlock, ovlBlock]; omega) (by simp only [fdlBlock]; omega)

/-- R49: the partitions come before the delay line. -/
theorem tfBlock_lt {bd : Build} {ch p : Nat} (bank : Bool) (hch : ch < 2) (hp : p < bd.P) :
    tfBlock bd (bankNumber bank) ch p < 4 * bd.P :=
  lt_of_inBank ((inBank_iff bd bank _).2 ⟨ch, p, hch, hp, rfl⟩)

theorem readBlock_filledMemory_tf {bd : Build} {c : BitVec 8} {ch p : Nat} (m : Memory) (bank : Bool)
    (hc : c.toNat < bd.P) (hch : ch < 2) (hp : p < bd.P) :
    readBlock bd (filledMemory bd c m) (tfBlock bd (bankNumber bank) ch p)
      = readBlock bd m (tfBlock bd (bankNumber bank) ch p) := by
  have hlt := tfBlock_lt bank hch hp
  exact readBlock_filledMemory_other m hc (by simp only [winBlock]; omega) (by simp only [ovlBlock]; omega)
    (by simp only [fdlBlock]; omega)

/-! ### Steps (d) and (e) -/

/-- R182 step (d), R183: the accumulator is the sum over the partitions in ascending order, from the blocks it reads. -/
theorem accumulate_eq_foldl {bd : Build} {m : Memory} {c : BitVec 8} {bank ch n : Nat} {slot part : Nat → List Word}
    (hslot : ∀ i, i < n → readBlock bd m (fdlBlock bd (fdlSlot bd c i)) = slot i)
    (hpart : ∀ i, i < n → readBlock bd m (tfBlock bd bank ch i) = part i) :
    accumulate bd m c bank ch n
      = (List.range n).foldl (fun x i => cmacWords x (slot i) (part i)) (zeroBlock bd) := by
  induction n with
  | zero => rfl
  | succ n ih =>
    rw [accumulate, ih (fun i hi => hslot i (by omega)) (fun i hi => hpart i (by omega)), hslot n (by omega),
      hpart n (by omega), List.range_succ, List.foldl_append, List.foldl_cons, List.foldl_nil]

/-- R182 steps (d) and (e), R183: the words that channel `ch` leaves in its accumulator, from the memory before the
tick. -/
def channelResult (bd : Build) (c : BitVec 8) (bank : Bool) (m : Memory) (ch : Nat) : List Word :=
  xform bd .inv ((List.range bd.P).foldl
    (fun x i => cmacWords x (agedWindow bd c m i) (readBlock bd m (tfBlock bd (bankNumber bank) ch i)))
    (zeroBlock bd))

theorem channelResult_length (bd : Build) (c : BitVec 8) (bank : Bool) (m : Memory) (ch : Nat) :
    (channelResult bd c bank m ch).length = bd.L := xform_length ..

/-- A channel's result does not depend on the blocks past the delay line that were stored before it. -/
theorem convolveChannel_eq {bd : Build} {c : BitVec 8} {m n : Memory} {ch : Nat} (bank : Bool) (acc : Nat)
    (hc : c.toNat < bd.P) (hch : ch < 2)
    (hn : ∀ b, b < 5 * bd.P → readBlock bd n b = readBlock bd (filledMemory bd c m) b) :
    convolveChannel bd c (bankNumber bank) ch acc n = writeBlock n acc (channelResult bd c bank m ch) := by
  rw [convolveChannel, accumulate_eq_foldl, channelResult]
  · intro i hi
    have hlt := fdlSlot_lt bd c i
    rw [hn _ (by simp only [fdlBlock]; omega), readBlock_filledMemory_slot m hc hi]
  · intro i hi
    have hlt := tfBlock_lt bank hch hi
    rw [hn _ (by omega), readBlock_filledMemory_tf m bank hc hch hi]

/-- R182 steps (a) to (e), as stores of values from the memory before the tick. -/
theorem olsMemory_eq {bd : Build} {c : BitVec 8} (bank : Bool) (m : Memory) (hc : c.toNat < bd.P) :
    olsMemory bd c (bankNumber bank) m =
      writeBlock (writeBlock (filledMemory bd c m) (acclBlock bd) (channelResult bd c bank m 0))
        (accrBlock bd) (channelResult bd c bank m 1) := by
  have hleft : convolveChannel bd c (bankNumber bank) 0 (acclBlock bd) (filledMemory bd c m)
      = writeBlock (filledMemory bd c m) (acclBlock bd) (channelResult bd c bank m 0) :=
    convolveChannel_eq bank _ hc (by omega) fun _ _ => rfl
  calc olsMemory bd c (bankNumber bank) m
      = convolveChannel bd c (bankNumber bank) 1 (accrBlock bd)
          (convolveChannel bd c (bankNumber bank) 0 (acclBlock bd) (filledMemory bd c m)) := rfl
    _ = _ := by
      rw [hleft]
      exact convolveChannel_eq bank _ hc (by omega) fun b hb =>
        readBlock_writeBlock_other _ (channelResult_length ..).le (by simp only [acclBlock]; omega)

/-! ### The blocks after the kernel -/

/-- R182: past steps (a) to (c) the kernel stores only ACCL and ACCR. -/
theorem readBlock_olsMemory_other {bd : Build} {c : BitVec 8} {b : Nat} (bank : Bool) (m : Memory)
    (hc : c.toNat < bd.P) (hl : b ≠ acclBlock bd) (hr : b ≠ accrBlock bd) :
    readBlock bd (olsMemory bd c (bankNumber bank) m) b = readBlock bd (filledMemory bd c m) b := by
  rw [olsMemory_eq bank m hc, readBlock_writeBlock_other _ (channelResult_length ..).le hr,
    readBlock_writeBlock_other _ (channelResult_length ..).le hl]

section
variable {bd : Build} {c : BitVec 8} (bank : Bool) (m : Memory) (hc : c.toNat < bd.P)
include hc

theorem readBlock_olsMemory_slot {i : Nat} (hi : i < bd.P) :
    readBlock bd (olsMemory bd c (bankNumber bank) m) (fdlBlock bd (fdlSlot bd c i)) = agedWindow bd c m i := by
  have hlt := fdlSlot_lt bd c i
  rw [readBlock_olsMemory_other bank m hc (by simp only [fdlBlock, acclBlock]; omega)
    (by simp only [fdlBlock, accrBlock]; omega), readBlock_filledMemory_slot m hc hi]

theorem readBlock_olsMemory_win :
    readBlock bd (olsMemory bd c (bankNumber bank) m) (winBlock bd) = tickSpectrum bd m := by
  rw [readBlock_olsMemory_other bank m hc (by simp only [winBlock, acclBlock]; omega)
    (by simp only [winBlock, accrBlock]; omega), filledMemory_eq m hc,
    readBlock_writeBlock_other _ (tickSpectrum_length bd m).le (by simp only [winBlock, fdlBlock]; omega),
    readBlock_writeBlock_same _ _ (tickSpectrum_length bd m)]

theorem readBlock_olsMemory_accl :
    readBlock bd (olsMemory bd c (bankNumber bank) m) (acclBlock bd) = channelResult bd c bank m 0 := by
  rw [olsMemory_eq bank m hc,
    readBlock_writeBlock_other _ (channelResult_length ..).le (by simp only [acclBlock, accrBlock]; omega),
    readBlock_writeBlock_same _ _ (channelResult_length ..)]

theorem readBlock_olsMemory_accr :
    readBlock bd (olsMemory bd c (bankNumber bank) m) (accrBlock bd) = channelResult bd c bank m 1 := by
  rw [olsMemory_eq bank m hc, readBlock_writeBlock_same _ _ (channelResult_length ..)]

/-- R52, R182 step (b): the overlap for the next tick. -/
theorem readWord_olsMemory_ovl {w : Nat} (hw : w < 2 * bd.B) :
    readWord (olsMemory bd c (bankNumber bank) m) (elmAddr (ovlBlock bd) w) = currentWord m w := by
  have hL := bd.L_eq
  have hwL : w < bd.L := by omega
  rw [← readBlock_getD bd _ _ _ hwL, readBlock_olsMemory_other bank m hc (by simp only [ovlBlock, acclBlock]; omega)
    (by simp only [ovlBlock, accrBlock]; omega), filledMemory_eq m hc,
    readBlock_writeBlock_other _ (tickSpectrum_length bd m).le (by simp only [ovlBlock, fdlBlock]; omega),
    readBlock_writeBlock_other _ (tickSpectrum_length bd m).le (by simp only [ovlBlock, winBlock]; omega),
    readBlock_getD _ _ _ _ hwL, readWord_writeBlock_same _ _ _ _ (by rwa [currentWords_length]), currentWords_eq]
  simp [List.getD_eq_getElem?_getD, hw]

/-- R182: the kernel stores only WIN, the overlap, the slot at the cursor, ACCL and ACCR. -/
theorem readByte_olsMemory_outside {a : Nat} (hwin : inBlockWords (winBlock bd) bd.L a = false)
    (hovl : inBlockWords (ovlBlock bd) (2 * bd.B) a = false) (hslot : inBlockWords (fdlBlock bd c.toNat) bd.L a = false)
    (haccl : inBlockWords (acclBlock bd) bd.L a = false) (haccr : inBlockWords (accrBlock bd) bd.L a = false) :
    readByte (olsMemory bd c (bankNumber bank) m) a = readByte m a := by
  have hout := mt (inBlockWords_iff (ovlBlock bd) (2 * bd.B) a).2 (Bool.eq_false_iff.1 hovl)
  rw [olsMemory_eq bank m hc, readByte_writeBlock_of_not_inBlockWords _ (channelResult_length ..) haccr,
    readByte_writeBlock_of_not_inBlockWords _ (channelResult_length ..) haccl, filledMemory_eq m hc,
    readByte_writeBlock_of_not_inBlockWords _ (tickSpectrum_length bd m) hslot,
    readByte_writeBlock_of_not_inBlockWords _ (tickSpectrum_length bd m) hwin,
    readByte_writeBlock_outside _ _ _ _ (by rw [currentWords_length]; omega),
    readByte_writeBlock_of_not_inBlockWords _ (tickWindow_length bd m) hwin]

end

end Sys2Proof.Machine
end

section
/-! PROOFS. TICK as a convolution tick (R181 to R184, R188, R201, R204): its whole next state, and what every store of
it says of the state before. -/

namespace Sys2Proof.Machine

/-! ### The next state -/

/-- R204, R226: the handshake and the completion of a tick. -/
theorem complete_completeAudio (s : State) :
    complete (completeAudio s) = { s with
      audioAvail := 0, tickCount := s.tickCount + 1, intStatus := s.intStatus ||| 0x03, pending := none,
      busy := false, wait := none } := by
  have hflags : s.intStatus ||| flagOutReady ||| flagDone = s.intStatus ||| 0x03 := BitVec.or_assoc ..
  rw [← hflags]
  rfl

/-- R181: with all buffers ready and no passthrough, TICK is a convolution tick. -/
theorem exec_tick_of_convolution {s : State} (haudio : s.audioAvail = 0xF) (hpass : s.passthru = false) :
    exec .tick s = .next (complete (completeAudio (convolve s))) := by
  have heffect : commandEffect .tick s = completeAudio (convolve s) := by
    simp [commandEffect, tickEffect, audioReady, haudio, hpass]
  rw [exec_eq_complete rfl, heffect]

/-! ### The output stage -/

/-- R12: a bin of a block is its two words. -/
theorem toBins_readBlock_getElem? {bd : Build} {k : Nat} (m : Memory) (b : Nat) (hk : k < bd.N) :
    (toBins (readBlock bd m b))[k]?
      = some ⟨(readBlock bd m b).getD (2 * k) 0, (readBlock bd m b).getD (2 * k + 1) 0⟩ := by
  have hL : bd.L = 2 * bd.N := rfl
  have hlt : k < (toBins (readBlock bd m b)).length := by rwa [toBins_readBlock_length]
  rw [← toBins_getD _ _ (by rw [readBlock_length]; omega), List.getElem?_eq_getElem hlt, List.getD_eq_getElem _ _ hlt]

/-- R182 step (e), R184, R201: sample `n` of both outputs, from the accumulators' words. -/
theorem outputs_getD (bd : Build) (gain : Word) (m : Memory) {n : Nat} (hn : n < bd.B) :
    ((emittedLeft bd m).map (outputSample gain)).getD n 0
        = outputSample gain ((readBlock bd m (acclBlock bd)).getD (2 * (bd.B + n)) 0) ∧
      ((emittedRight bd m).map (outputSample gain)).getD n 0
        = outputSample gain ((readBlock bd m (accrBlock bd)).getD (2 * (bd.B + n) + 1) 0) := by
  have hN := bd.N_eq
  have hbin : ∀ b, _ := fun b => toBins_readBlock_getElem? (bd := bd) (k := bd.B + n) m b (by omega)
  simp [emittedLeft, emittedRight, List.getD_eq_getElem?_getD, hbin]

/-- R207: the memory after the output stage. -/
theorem convolve_mem (s : State) :
    (convolve s).mem =
      writeBuffer (writeBuffer (olsTick s).mem .outL
        ((emittedLeft s.build (olsTick s).mem).map (outputSample s.gain))) .outR
        ((emittedRight s.build (olsTick s).mem).map (outputSample s.gain)) := rfl

theorem outputs_length (bd : Build) (gain : Word) (m : Memory) :
    ((emittedLeft bd m).map (outputSample gain)).length = bd.B ∧
      ((emittedRight bd m).map (outputSample gain)).length = bd.B := by
  rw [List.length_map, List.length_map]
  exact emitted_length bd m

/-- R201: the output stage changes no block. -/
theorem elmWord_convolve (s : State) (b w : Nat) :
    elmWord (convolve s) b w = readWord (olsTick s).mem (elmAddr b w) := by
  obtain ⟨hleft, hright⟩ := outputs_length s.build s.gain (olsTick s).mem
  rw [elmWord, convolve_mem, readWord_writeBuffer _ hright, readWord_writeBuffer _ hleft]

/-- R182: a word of a block after the tick, by the block's words after the kernel. -/
theorem elmWord_convolve_eq_getD {s : State} {b w : Nat} {ws : List Word} (hw : w < s.build.L)
    (hblock : readBlock s.build (olsTick s).mem b = ws) :
    elmWord (convolve s) b w = ws.getD w 0 := by
  rw [elmWord_convolve, ← readBlock_getD s.build _ _ _ hw, hblock]

/-- R184, R201: the outputs are the second half of each accumulator, the left's real and the right's imaginary parts,
through the output stage. -/
theorem sampleAt_convolve {s : State} (hc : s.cursor.toNat < s.build.P) {n : Nat} (hn : n < s.build.B) :
    sampleAt (convolve s) .outL n = outputSample s.gain
        ((channelResult s.build s.cursor s.activeBank s.mem 0).getD (2 * (s.build.B + n)) 0) ∧
      sampleAt (convolve s) .outR n = outputSample s.gain
        ((channelResult s.build s.cursor s.activeBank s.mem 1).getD (2 * (s.build.B + n) + 1) 0) := by
  obtain ⟨hleft, hright⟩ := outputs_length s.build s.gain (olsTick s).mem
  obtain ⟨hl, hr⟩ := outputs_getD s.build s.gain (olsTick s).mem hn
  have haccl : readBlock s.build (olsTick s).mem (acclBlock s.build) = _ :=
    readBlock_olsMemory_accl s.activeBank s.mem hc
  have haccr : readBlock s.build (olsTick s).mem (accrBlock s.build) = _ :=
    readBlock_olsMemory_accr s.activeBank s.mem hc
  rw [sampleAt, sampleAt, convolve_mem]
  constructor
  · rw [readSample_writeBuffer_other _ hright hn (by decide), readSample_writeBuffer_same _ _ (by omega), hl, haccl]
  · rw [readSample_writeBuffer_same _ _ (by omega), hr, haccr]

/-! ### The statements -/

/-- Settles O43: each block and buffer after the tick is what the kernel stores in it, and the window, the slots and
the sums are the spec's. -/
theorem convolutionTickFollowsTheKernel : Obligations.ConvolutionTickFollowsTheKernel := by
  intro s haudio hpass hc bd c cur win spectrum slot acc yL yR
  have hspectrum : spectrum = tickSpectrum bd s.mem := congrArg (xform bd .fwd) (tickWindow_eq bd s.mem).symm
  have hslot : ∀ i, i < bd.P → agedWindow bd s.cursor s.mem i = slot i := fun i hi => by
    simp only [agedWindow, slot, hspectrum, fdlSlot_eq bd s.cursor hi.le]
    rfl
  have hresult : ∀ ch, xform bd .inv (acc ch) = channelResult bd s.cursor s.activeBank s.mem ch := fun ch =>
    congrArg (xform bd .inv) (List.foldl_ext _ _ _ fun x i hi => by rw [hslot i (List.mem_range.1 hi)])
  refine ⟨complete (completeAudio (convolve s)), exec_tick_of_convolution haudio hpass,
    complete_completeAudio (convolve s), fun w hw => ⟨?_, ?_, ?_, ?_⟩, fun w hw => ?_, fun n hn => ?_⟩
  · rw [hspectrum]
    exact elmWord_convolve_eq_getD hw (readBlock_olsMemory_win s.activeBank s.mem hc)
  · have hnewest := readBlock_olsMemory_slot s.activeBank s.mem hc bd.P_pos
    rw [fdlSlot_zero hc] at hnewest
    rw [hspectrum]
    exact elmWord_convolve_eq_getD hw hnewest
  · exact (elmWord_convolve_eq_getD hw (readBlock_olsMemory_accl s.activeBank s.mem hc)).trans (by rw [← hresult])
  · exact (elmWord_convolve_eq_getD hw (readBlock_olsMemory_accr s.activeBank s.mem hc)).trans (by rw [← hresult])
  · exact (elmWord_convolve s _ w).trans (readWord_olsMemory_ovl s.activeBank s.mem hc hw)
  · have houtputs := sampleAt_convolve hc hn
    rw [← hresult 0, ← hresult 1] at houtputs
    exact houtputs

/-- Settles O44: the kernel's stores, then the two output buffers. -/
theorem convolutionTickStoresOnlyItsBlocks : Obligations.ConvolutionTickStoresOnlyItsBlocks := by
  intro s a haudio hpass hc hwin hovl hslot haccl haccr houtL houtR
  refine ⟨_, exec_tick_of_convolution haudio hpass, ?_⟩
  obtain ⟨hleft, hright⟩ := outputs_length s.build s.gain (olsTick s).mem
  rw [complete_mem, completeAudio_mem, convolve_mem, readByte_writeBuffer_of_outside _ hright houtR,
    readByte_writeBuffer_of_outside _ hleft houtL, olsTick_mem,
    readByte_olsMemory_outside s.activeBank s.mem hc hwin hovl hslot haccl haccr]

/-- R188: the slot of the window `j` ticks old, counted from the cursor, which stands past the newest window. -/
theorem agedSlot_succ {c P j : Nat} (hc : c < P) (hj : j < P) :
    ((c + 1) % P + P - 1 - j) % P = (c + P - j) % P := by
  obtain hlast | hlt : c + 1 = P ∨ c + 1 < P := by omega
  · rw [hlast, Nat.mod_self, ← hlast, ← Nat.add_mod_right (0 + (c + 1) - 1 - j) (c + 1)]
    congr 1
    omega
  · rw [Nat.mod_eq_of_lt hlt]
    congr 1
    omega

/-- Settles O45: the tick advances the cursor, so the slot of each window but the newest keeps its number and its
words. -/
theorem delayLineAgesByOneTick : Obligations.DelayLineAgesByOneTick := by
  intro s haudio hpass hc slot
  have hcursor : ∀ j, j < s.build.P →
      slot (complete (completeAudio (convolve s))) j = fdlSlot s.build s.cursor j := fun j hj => by
    rw [fdlSlot_eq _ _ hj.le, ← agedSlot_succ hc hj, ← nextCursor_toNat]
    rfl
  have hbefore : ∀ j, 1 ≤ j → slot s (j - 1) = (s.cursor.toNat + s.build.P - j) % s.build.P := fun j hj => by
    simp only [slot]
    congr 1
    omega
  have hpos := s.build.P_pos
  refine ⟨complete (completeAudio (convolve s)), exec_tick_of_convolution haudio hpass, ?_,
    fun w hw => ⟨?_, fun j hj hlt => ?_⟩⟩
  · rw [hcursor 0 hpos, hbefore s.build.P hpos, fdlSlot_zero hc, Nat.add_sub_cancel, Nat.mod_eq_of_lt hc]
  · rw [hcursor 0 hpos]
    exact (elmWord_convolve_eq_getD hw (readBlock_olsMemory_slot s.activeBank s.mem hc hpos)).trans
      (elmWord_convolve_eq_getD hw (readBlock_olsMemory_win s.activeBank s.mem hc)).symm
  · rw [hcursor j hlt, hbefore j hj, ← fdlSlot_eq _ _ hlt.le]
    refine (elmWord_convolve_eq_getD hw (readBlock_olsMemory_slot s.activeBank s.mem hc hlt)).trans ?_
    rw [agedWindow, if_neg (by omega), readBlock_getD _ _ _ _ hw, elmWord]

end Sys2Proof.Machine
end

section
/-! PROOFS. The audio sample adapter (R202 to R205): TICK as a skip and as a passthrough tick, and the two counters. -/

namespace Sys2Proof.Machine

/-! ### The three ways of a TICK -/

/-- R107: TICK has no operands, so it always completes. -/
theorem exec_tick (s : State) : exec .tick s = .next (complete (tickEffect s)) := exec_eq_complete rfl

/-- R203: a buffer that is not available makes the tick a skip. -/
theorem tickEffect_of_skip {s : State} (haudio : s.audioAvail ≠ 0xF) : tickEffect s = skipTick s := by
  have hready : audioReady s = false := decide_eq_false haudio
  rw [tickEffect, hready]
  rfl

/-- R202: with all buffers available and PASSTHRU set, the tick copies. -/
theorem tickEffect_of_passthru {s : State} (haudio : s.audioAvail = 0xF) (hpass : s.passthru = true) :
    tickEffect s = completeAudio (passthrough s) := by
  simp [tickEffect, audioReady, haudio, hpass]

/-! ### The skip -/

/-- R203, R205, R226: the skip and its completion. -/
theorem complete_skipTick (s : State) :
    complete (skipTick s) = { s with
      skipCount := s.skipCount + 1, intStatus := s.intStatus ||| 0x05, pending := none, busy := false,
      wait := none } := by
  have hflags : s.intStatus ||| flagSkip ||| flagDone = s.intStatus ||| 0x05 := BitVec.or_assoc ..
  rw [← hflags]
  rfl

/-- Settles O41: the tick's effect is the skip's. -/
theorem tickSkipsWithoutAllBuffers : Obligations.TickSkipsWithoutAllBuffers := fun s haudio => by
  rw [exec_tick, tickEffect_of_skip haudio, complete_skipTick]

/-! ### The passthrough tick -/

theorem readBuffer_length (bd : Build) (m : Memory) (x : AudioBuf) : (readBuffer bd m x).length = bd.B :=
  readSamples_length ..

/-- R76: the samples of a buffer, by number. -/
theorem readBuffer_getD {bd : Build} {k : Nat} (m : Memory) (x : AudioBuf) (hk : k < bd.B) :
    (readBuffer bd m x).getD k 0 = readSample m (audioAddr x k) := by
  simp [readBuffer, readSamples_eq, audioAddr_sample x k, hk]

/-- R202: the memory after the copy. -/
theorem passthrough_mem (s : State) :
    (passthrough s).mem = writeBuffer (writeBuffer s.mem .outL (readBuffer s.build s.mem .inL)) .outR
      (readBuffer s.build s.mem .inR) := rfl

/-- R202: each output sample is the input sample of its channel. -/
theorem sampleAt_passthrough {s : State} {n : Nat} (hn : n < s.build.B) :
    sampleAt (passthrough s) .outL n = sampleAt s .inL n ∧ sampleAt (passthrough s) .outR n = sampleAt s .inR n := by
  have hlen : ∀ x, (readBuffer s.build s.mem x).length = s.build.B := readBuffer_length s.build s.mem
  simp only [sampleAt, passthrough_mem]
  constructor
  · rw [readSample_writeBuffer_other _ (hlen _) hn (by decide),
      readSample_writeBuffer_same _ _ (hn.trans_eq (hlen _).symm), readBuffer_getD _ _ hn]
  · rw [readSample_writeBuffer_same _ _ (hn.trans_eq (hlen _).symm), readBuffer_getD _ _ hn]

/-- R202: the copy stores in the output buffers only. -/
theorem readByte_passthrough_outside {s : State} {a : Nat} (houtL : inBuffer s.build .outL a = false)
    (houtR : inBuffer s.build .outR a = false) : readByte (passthrough s).mem a = readByte s.mem a := by
  rw [passthrough_mem, readByte_writeBuffer_of_outside _ (readBuffer_length ..) houtR,
    readByte_writeBuffer_of_outside _ (readBuffer_length ..) houtL]

/-- Settles O42: the copy, then the handshake of every audio tick. -/
theorem passthroughTickCopiesSamples : Obligations.PassthroughTickCopiesSamples := fun s haudio hpass =>
  ⟨complete (completeAudio (passthrough s)), by rw [exec_tick, tickEffect_of_passthru haudio hpass],
    complete_completeAudio (passthrough s), fun _ hn => sampleAt_passthrough hn,
    fun _ houtL houtR => readByte_passthrough_outside houtL houtR⟩

/-! ### The counters -/

/-- R205: a skip counts in SKIP_COUNT, every other tick in TICK_COUNT. -/
theorem tickEffect_counts (s : State) :
    ((tickEffect s).tickCount = s.tickCount + 1 ∧ (tickEffect s).skipCount = s.skipCount) ∨
      ((tickEffect s).tickCount = s.tickCount ∧ (tickEffect s).skipCount = s.skipCount + 1) := by
  unfold tickEffect
  split_ifs
  · exact .inr ⟨skipTick_tickCount s, skipTick_skipCount s⟩
  · exact .inl ⟨completeAudio_tickCount (passthrough s), completeAudio_skipCount (passthrough s)⟩
  · exact .inl ⟨completeAudio_tickCount (convolve s), completeAudio_skipCount (convolve s)⟩

/-- R205: no effect of another command counts. -/
theorem commandEffect_counts {i : Instr} (s : State) (hi : i ≠ .tick) :
    (commandEffect i s).tickCount = s.tickCount ∧ (commandEffect i s).skipCount = s.skipCount := by
  cases i with
  | nop | commit | clrstate => exact ⟨rfl, rfl⟩
  | clear | copy | cmac | fft | ifft | part => exact ⟨setBlock_tickCount _ _ s, setBlock_skipCount _ _ s⟩
  | tick => exact absurd rfl hi

/-- Settles O30: neither the completion nor the rejection of a command counts, so what counts is its effect. -/
theorem eachTickCountsOnce : Obligations.EachTickCountsOnce := by
  intro i s t hexec
  split_ifs with hi
  · subst hi
    rw [exec_tick] at hexec
    obtain rfl : complete (tickEffect s) = t := by injection hexec
    exact tickEffect_counts s
  · rw [exec_eq_perform] at hexec
    obtain ⟨-, rfl⟩ | ⟨e, -, rfl⟩ := perform_cases i _ s t hexec
    · exact commandEffect_counts s hi
    · exact ⟨abandon_tickCount e _ s, abandon_skipCount e _ s⟩

end Sys2Proof.Machine
end

section
/-! PROOFS. The schedule of the two agents (R83, R237, R262): the host goes where it is not the engine's turn, and a
sound state always has an event. -/

namespace Sys2Proof.Machine

/-- R83: where it is not the engine's turn, the step is the host's event. -/
theorem step_of_hostTurn {s : State} (hturn : engineTurn s = false) : step s = .next (hostStep s) := by
  simp [step, event, hturn]

/-- R237: with no INIT and nothing pending the engine has no work. -/
theorem engineWork_of_idle {s : State} (hinit : s.init = false) (hpending : s.pending = none) :
    engineWork s = false := by
  simp [engineWork, hinit, hpending]

/-- R237: without work it is never the engine's turn. -/
theorem engineTurn_of_not_work {s : State} (hwork : engineWork s = false) : engineTurn s = false := by
  simp [engineTurn, hwork]

/-- R262: with an operation of the host left and its count not run out, the engine waits. -/
theorem engineTurn_of_waiting {s : State} (hhost : s.host ≠ []) (hleft : remaining s ≠ 0) :
    engineTurn s = false := by
  simp [engineTurn, hhost, hleft]

/-- R30: the host's event is its next operation. -/
theorem hostStep_cons {s : State} {op : HostOp} {rest : List HostOp} (hhost : s.host = op :: rest) :
    hostStep s = hostOp op (countDown { s with host := rest }) := by
  rw [hostStep, hhost]

/-- R237: a host with no operation left changes nothing. -/
theorem hostStep_nil {s : State} (hhost : s.host = []) : hostStep s = s := by
  rw [hostStep, hhost]

/-- R262: no count goes down while the engine has no work. -/
theorem countDown_of_not_work {s : State} (hwork : engineWork s = false) : countDown s = s := by
  simp [countDown, hwork]

/-- R262: one host operation lowers the count in progress by one. -/
theorem countDown_of_wait {s : State} {n : Nat} (hwork : engineWork s = true) (hwait : s.wait = some (n + 1)) :
    countDown s = { s with wait := some n } := by
  simp [countDown, remaining, hwork, hwait]

/-- Settles O6: without work, and while a pending command waits, it is the host's turn. -/
theorem engineIsIdleWithoutWork : Obligations.EngineIsIdleWithoutWork := by
  refine ⟨fun s hinit hpending hhost => ?_, fun s op rest hinit hpending hhost => ?_,
    fun s op rest n hpending hhost hwait => ?_⟩
  · have hwork := engineWork_of_idle hinit hpending
    rw [step_of_hostTurn (engineTurn_of_not_work hwork), hostStep_nil hhost]
  · have hwork := engineWork_of_idle hinit hpending
    rw [step_of_hostTurn (engineTurn_of_not_work hwork), hostStep_cons hhost,
      countDown_of_not_work (s := { s with host := rest }) hwork]
  · have hturn : engineTurn s = false := engineTurn_of_waiting (by simp [hhost]) (by simp [remaining, hwait])
    have hwork : engineWork s = true := by simp [engineWork, hpending]
    rw [step_of_hostTurn hturn, hostStep_cons hhost, countDown_of_wait (s := { s with host := rest }) hwork hwait]

/-- Settles O25: on the engine's turn INIT ends, or else a command is pending, which a sound state can perform. -/
theorem soundStateAlwaysSteps : Obligations.SoundStateAlwaysSteps := by
  intro s hsound
  cases hturn : engineTurn s with
  | false => exact ⟨hostStep s, step_of_hostTurn hturn⟩
  | true =>
    cases hinit : s.init with
    | true => exact ⟨endInit s, by simp [step, event, engineStep, hturn, hinit]⟩
    | false =>
      obtain ⟨hpending, -⟩ : s.pending.isSome = true ∧ _ := by simpa [engineTurn, engineWork, hinit] using hturn
      obtain ⟨c, hc⟩ := Option.isSome_iff_exists.1 hpending
      obtain ⟨-, -, i, hdecode, hok⟩ := pending_of_sound hsound hc
      obtain ⟨t, hexec, -⟩ := exec_of_ok hok
      exact ⟨t, (stepRunsTheDecodedPendingCommand s c i hturn hinit hc hdecode).trans hexec⟩

end Sys2Proof.Machine
end

section
/-! PROOFS. The fields of a command word that its opcode uses (R103, R106): the opcode and the four fields say what the
word decodes to, and with what operands. -/

namespace Sys2Proof

/-- R103: opcodes 1 to 6 have an operand A. -/
def usesA (op : Nat) : Bool := decide (1 ≤ op ∧ op ≤ 6)

/-- R103: COPY, CMAC and PART have an operand Bf. -/
def usesB (op : Nat) : Bool := decide (op = 2 ∨ op = 3 ∨ op = 6)

/-- R103: CMAC has an operand C. -/
def usesC (op : Nat) : Bool := decide (op = 3)

/-- R104: the mask of a row covers the fields that the row does not use. -/
def fieldMask (used : Bool) : BlockIdx := if used then 0 else 0x1FF

/-- R106: the word has a field that its opcode does not use and that is not 0. -/
def ReservedFieldSet (c : Word) : Prop :=
  (usesA (fieldOp c) = false ∧ (fieldA c).toNat ≠ 0) ∨ (usesB (fieldOp c) = false ∧ (fieldB c).toNat ≠ 0) ∨
    (usesC (fieldOp c) = false ∧ (fieldC c).toNat ≠ 0)

/-- R107: the word has a field that its opcode uses and that names no implemented block. -/
def BlockOutOfRange (b : Build) (c : Word) : Prop :=
  (usesA (fieldOp c) = true ∧ b.numBlocks ≤ (fieldA c).toNat) ∨
    (usesB (fieldOp c) = true ∧ b.numBlocks ≤ (fieldB c).toNat) ∨
    (usesC (fieldOp c) = true ∧ b.numBlocks ≤ (fieldC c).toNat)

/-- R104: row `n` of the table is opcode `n` with zeros in the fields that it does not use. -/
theorem opTable_fields {n : Nat} {row : OpRow} (h : opTable[n]? = some row) :
    row.matchWord = commandWord (BitVec.ofNat 5 n) 0 0 0 ∧
      row.mask = commandWord 0x1F (fieldMask (usesC n)) (fieldMask (usesB n)) (fieldMask (usesA n)) := by
  have hrows : ∀ j : Fin opTable.length, opTable[j].matchWord = commandWord (BitVec.ofNat 5 j) 0 0 0 ∧
      opTable[j].mask = commandWord 0x1F (fieldMask (usesC j)) (fieldMask (usesB j)) (fieldMask (usesA j)) := by
    decide
  obtain ⟨hlt, rfl⟩ := List.getElem?_eq_some_iff.1 h
  exact hrows ⟨n, hlt⟩

/-- A field is 0 under its mask exactly when it is used or 0. -/
theorem and_fieldMask_eq_zero_iff (x : BlockIdx) (used : Bool) :
    x &&& fieldMask used = 0 ↔ ¬ (used = false ∧ x.toNat ≠ 0) := by
  cases used with
  | true => simp [fieldMask]
  | false =>
    have hfull : x &&& fieldMask false = x := BitVec.and_allOnes
    rw [hfull, BitVec.toNat_eq]
    simp

/-- R101: words are equal exactly when their fields are. -/
theorem commandWord_eq_iff (op op' : BitVec 5) (c c' bf bf' a a' : BlockIdx) :
    commandWord op c bf a = commandWord op' c' bf' a' ↔ op = op' ∧ c = c' ∧ bf = bf' ∧ a = a' :=
  ⟨commandWord_inj, by rintro ⟨rfl, rfl, rfl, rfl⟩; rfl⟩

/-- R104, R106: a word matches the row of its opcode exactly when it has no reserved field set. -/
theorem matches_iff_not_reservedFieldSet {c : Word} {row : OpRow} (hrow : opTable[fieldOp c]? = some row) :
    c &&& row.mask = row.matchWord ↔ ¬ ReservedFieldSet c := by
  obtain ⟨hmatch, hmask⟩ := opTable_fields hrow
  have hop : c.extractLsb' 27 5 &&& 0x1F = BitVec.ofNat 5 (fieldOp c) := by
    rw [fieldOp, BitVec.ofNat_toNat, BitVec.setWidth_eq]
    exact BitVec.and_allOnes
  have hand : c &&& row.mask = commandWord (c.extractLsb' 27 5 &&& 0x1F) (fieldC c &&& fieldMask (usesC (fieldOp c)))
      (fieldB c &&& fieldMask (usesB (fieldOp c))) (fieldA c &&& fieldMask (usesA (fieldOp c))) := by
    rw [← Laws.commandWord_and, commandWord_fields, hmask]
  simp only [hand, hmatch, commandWord_eq_iff, and_fieldMask_eq_zero_iff, ReservedFieldSet, hop]
  tauto

/-- R105: a reserved opcode is rejected as such. -/
theorem decode_of_reservedOpcode {c : Word} (hop : 0x0A ≤ fieldOp c) : decode c = .error .illegalOpcode := by
  obtain ⟨-, hd⟩ | ⟨row, hrow, -⟩ := decode_cases c
  · exact hd
  · obtain ⟨hlt, -⟩ := List.getElem?_eq_some_iff.1 hrow
    exact absurd hop (Nat.not_le.2 hlt)

/-- R106: a word with a defined opcode and a reserved field set is rejected by that field. -/
theorem decode_of_reservedFieldSet {c : Word} (hop : fieldOp c < 0x0A) (hset : ReservedFieldSet c) :
    decode c = .error .reservedField := by
  obtain ⟨hnone, -⟩ | ⟨row, hrow, ⟨hm, -⟩ | ⟨-, hd⟩⟩ := decode_cases c
  · exact absurd hop (Nat.not_lt.2 (List.getElem?_eq_none_iff.1 hnone))
  · exact absurd hset ((matches_iff_not_reservedFieldSet hrow).1 hm)
  · exact hd

/-- R103: a word with a defined opcode and no reserved field set is a command's encoding. -/
theorem exists_encode_of_not_reservedFieldSet {c : Word} (hop : fieldOp c < 0x0A) (hclear : ¬ ReservedFieldSet c) :
    ∃ i, encode i = c := by
  obtain ⟨hnone, -⟩ | ⟨row, hrow, ⟨-, i, -, hi⟩ | ⟨hm, -⟩⟩ := decode_cases c
  · exact absurd hop (Nat.not_lt.2 (List.getElem?_eq_none_iff.1 hnone))
  · exact ⟨i, hi⟩
  · exact absurd ((matches_iff_not_reservedFieldSet hrow).2 hclear) hm

/-- R103: the used fields of a command's word are its operands, and A is its destination where it has one. -/
theorem operands_of_encode (i : Instr) :
    i.blocks = (if usesA (fieldOp (encode i)) then [fieldA (encode i)] else []) ++
        (if usesB (fieldOp (encode i)) then [fieldB (encode i)] else []) ++
        (if usesC (fieldOp (encode i)) then [fieldC (encode i)] else []) ∧
      i.dest? = if usesA (fieldOp (encode i)) then some (fieldA (encode i)) else none := by
  cases i <;> simp [encode, Laws.fields_commandWord, usesA, usesB, usesC, Instr.blocks, Instr.dest?]

/-- What holds of a field where it is used. -/
theorem forall_mem_operand_iff (used : Bool) (x : BlockIdx) (p : BlockIdx → Prop) :
    (∀ y ∈ if used then [x] else [], p y) ↔ (used = true → p x) := by
  cases used <;> simp

/-- R107: a command is well formed exactly when no used field of its word is out of range. -/
theorem wellFormed_iff_not_blockOutOfRange (b : Build) (i : Instr) :
    i.wellFormed b = true ↔ ¬ BlockOutOfRange b (encode i) := by
  obtain ⟨hblocks, -⟩ := operands_of_encode i
  simp only [Instr.wellFormed_iff, hblocks, List.forall_mem_append, forall_mem_operand_iff, BlockOutOfRange,
    ← Nat.not_le]
  tauto

end Sys2Proof
end

section
/-! PROOFS. The issue rule (R222 to R224): one lemma per check, each on a word that has passed the checks before it. -/

namespace Sys2Proof.Machine

/-- R37: a write of CMD issues its word, and completes on the bus. -/
theorem hostWrite_cmd (c : Word) (s : State) : hostWrite 4 0x010 c s = respond (.write false) (issue c s) :=
  hostWrite_regOffset c (r := .cmd) (Bool.and_false _)

/-- R223: a word that fails a check only records the check's error. -/
theorem issue_of_error {c : Word} {s : State} {e : CmdError} (h : issueError s c = some e) :
    issue c s = recordCmdError e c s := by
  simp [issue, h]

/-- R222: a word that passes every check is accepted. -/
theorem issue_of_ok {c : Word} {s : State} (h : issueError s c = none) : issue c s = accept c s := by
  simp [issue, h]

/-- R163: the word's opcode has a destination, and it is in the active bank. -/
def DestInActiveBank (b : Build) (bank : Bool) (c : Word) : Prop :=
  usesA (fieldOp c) = true ∧ inBank b bank (fieldA c).toNat = true

/-- R107: the block range is checked on the used fields of the command's word. -/
theorem operandError_of_blockOutOfRange {b : Build} {i : Instr} (bank : Bool) (hrange : BlockOutOfRange b (encode i)) :
    operandError b bank i = some .blockRange := by
  have hw : ¬ i.wellFormed b = true := fun hw => (wellFormed_iff_not_blockOutOfRange b i).1 hw hrange
  simp [operandError, hw]

/-- R163: after the block range, the destination is checked on operand A of the command's word. -/
theorem operandError_of_destInActiveBank {b : Build} {bank : Bool} {i : Instr}
    (hrange : ¬ BlockOutOfRange b (encode i)) (hbank : DestInActiveBank b bank (encode i)) :
    operandError b bank i = some .activeTf := by
  obtain ⟨-, hdest⟩ := operands_of_encode i
  obtain ⟨hA, hin⟩ := hbank
  have hw := (wellFormed_iff_not_blockOutOfRange b i).2 hrange
  simp [operandError, hw, hdest, hA, hin]

/-- R107, R163: a command's word that passes both checks has no operand error. -/
theorem operandError_of_checked {b : Build} {bank : Bool} {i : Instr} (hrange : ¬ BlockOutOfRange b (encode i))
    (hbank : ¬ DestInActiveBank b bank (encode i)) : operandError b bank i = none := by
  obtain ⟨-, hdest⟩ := operands_of_encode i
  refine (operandError_eq_none_iff b bank i).2 ⟨(wellFormed_iff_not_blockOutOfRange b i).2 hrange, fun d hd => ?_⟩
  rw [hdest] at hd
  split_ifs at hd with hA
  cases hd
  exact Bool.eq_false_of_not_eq_true fun hin => hbank ⟨hA, hin⟩

section
variable {s : State} {c : Word} (hidle : s.busy = false)
include hidle

/-- R105, R222: the opcode check. -/
theorem issueError_of_reservedOpcode (hop : 0x0A ≤ fieldOp c) : issueError s c = some .illegalOpcode := by
  simp [issueError, hidle, decode_of_reservedOpcode hop, decodeCmdError]

/-- R106, R222: the reserved-field check. -/
theorem issueError_of_reservedFieldSet (hop : fieldOp c < 0x0A) (hset : ReservedFieldSet c) :
    issueError s c = some .reservedField := by
  simp [issueError, hidle, decode_of_reservedFieldSet hop hset, decodeCmdError]

/-- R222: past these checks the word is a command's encoding, and the operand checks decide. -/
theorem issueError_of_not_reservedFieldSet (hop : fieldOp c < 0x0A) (hclear : ¬ ReservedFieldSet c) :
    ∃ i, encode i = c ∧ issueError s c = operandError s.build s.activeBank i := by
  obtain ⟨i, rfl⟩ := exists_encode_of_not_reservedFieldSet hop hclear
  exact ⟨i, rfl, by simp [issueError, hidle, decode_encode]⟩

end

/-- Settles O7: the checks one by one, each on a word that has passed those before it. -/
theorem cmdWriteRunsTheIssueChecksInOrder : Obligations.CmdWriteRunsTheIssueChecksInOrder := by
  intro s c op a bf cc hasA hasB hasC
  rw [hostWrite_cmd]
  congr 1
  split_ifs with hbusy hop hset hrange hbank
  · exact issue_busy c hbusy
  · exact issue_of_error (issueError_of_reservedOpcode (Bool.eq_false_of_not_eq_true hbusy) hop)
  · exact issue_of_error (issueError_of_reservedFieldSet (Bool.eq_false_of_not_eq_true hbusy) (Nat.not_le.1 hop) hset)
  all_goals
    obtain ⟨i, rfl, herror⟩ :=
      issueError_of_not_reservedFieldSet (Bool.eq_false_of_not_eq_true hbusy) (Nat.not_le.1 hop) hset
  · exact issue_of_error (herror.trans (operandError_of_blockOutOfRange _ hrange))
  · exact issue_of_error (herror.trans (operandError_of_destInActiveBank hrange hbank))
  · exact issue_of_ok (herror.trans (operandError_of_checked hrange hbank))

/-- Settles O8: the code of each error is R221's, and ERR decides whether it is kept. -/
theorem rejectedCommandOnlyRecordsItsError : Obligations.RejectedCommandOnlyRecordsItsError := by
  intro s c e herror code
  have hcode : code = errorCode e := by cases e <;> rfl
  rw [hostWrite_cmd, issue_of_error herror, hcode]
  split_ifs with hflag
  · rw [recordCmdError_later e c s hflag]; rfl
  · rw [recordCmdError_first e c s (Bool.eq_false_of_not_eq_true hflag)]; rfl

end Sys2Proof.Machine
end

section
/-! PROOFS. The interrupt status: its clearing by ones (R225) and the interrupt output (R227). -/

namespace Sys2Proof.Machine

/-- R225: the state after a write to INT_STATUS, whole. -/
theorem clearIntStatus_eq (v : Word) (s : State) :
    clearIntStatus v s =
      { s with
        intStatus := (clearIntStatus v s).intStatus,
        errCode := if v.getLsbD 3 then 0 else s.errCode,
        errCmd := if v.getLsbD 3 then 0 else s.errCmd } := by
  unfold clearIntStatus
  split_ifs <;> rfl

/-- R225: bit `i` is kept exactly where the written bit is 0. -/
theorem getLsbD_clearIntStatus (v : Word) (s : State) {i : Nat} (hi : i < 5) :
    (clearIntStatus v s).intStatus.getLsbD i = (s.intStatus.getLsbD i && !v.getLsbD i) := by
  rw [clearIntStatus_intStatus, BitVec.getLsbD_and, BitVec.getLsbD_not, BitVec.getLsbD_setWidth]
  simp [hi]

/-- Settles O9: INT_STATUS is not protected while BUSY (R79), so its write clears. -/
theorem writeOneClearsInterruptStatus : Obligations.WriteOneClearsInterruptStatus := fun s v =>
  ⟨(clearIntStatus v s).intStatus, fun _ hi => getLsbD_clearIntStatus v s hi,
    (hostWrite_regOffset v (r := .intStatus) (Bool.and_false _)).trans
      (congrArg (respond (.write false)) (clearIntStatus_eq v s))⟩

/-- A bit vector is nonzero exactly when one of its bits is 1. -/
theorem ne_zero_iff_exists_getLsbD {w : Nat} (x : BitVec w) : x ≠ 0 ↔ ∃ i, i < w ∧ x.getLsbD i = true := by
  rw [Ne, BitVec.eq_of_getLsbD_eq_iff]
  simp

/-- Settles O10: some bit of the enabled status is 1. -/
theorem interruptOutputIsEnabledStatus : Obligations.InterruptOutputIsEnabledStatus := fun s => by
  rw [irq, decide_eq_true_eq, ne_zero_iff_exists_getLsbD]
  simp only [BitVec.getLsbD_and, Bool.and_eq_true]

end Sys2Proof.Machine
end

section
/-! PROOFS. Refused accesses (R71, R72, R74, R79, R80, R230). -/

namespace Sys2Proof.Machine

/-- R230: the five causes for which an access is refused are all there are. -/
theorem accessTarget_eq_none_iff (s : State) (w : Bool) (size a : Nat) :
    accessTarget s w size a = none ↔
      size ≠ 4 ∨ a % 4 ≠ 0 ∨ targetAt? s.build a = none ∨
        ∃ t, targetAt? s.build a = some t ∧
          ((s.busy = true ∧ busyRefused w t = true) ∨ bankRefused s.build s.activeBank w t = true) := by
  refine ⟨fun hnone => ?_, fun hcause => Option.eq_none_iff_forall_ne_some.2 fun t ht => ?_⟩
  · by_contra hadmitted
    push Not at hadmitted
    obtain ⟨hsize, halign, hmapped, hfree⟩ := hadmitted
    obtain ⟨t, hmap⟩ := Option.ne_none_iff_exists'.1 hmapped
    obtain ⟨hbusy, hbank⟩ := hfree t hmap
    have htarget := (accessTarget_eq_some_iff s w size a t).2
      ⟨hsize, halign, hmap, by simpa using hbusy, by simpa using hbank⟩
    simp [hnone] at htarget
  · obtain ⟨hsize, halign, hmap, hbusy, hbank⟩ := (accessTarget_eq_some_iff s w size a t).1 ht
    obtain hcause | hcause | hcause | ⟨t', hmap', hcause⟩ := hcause
    · exact hcause hsize
    · exact hcause halign
    · simp [hmap] at hcause
    · obtain rfl : t = t' := Option.some.inj (hmap.symm.trans hmap')
      obtain ⟨hb, hr⟩ | hr := hcause
      · simp [hb, hr] at hbusy
      · simp [hr] at hbank

/-- R230: a refused read answers 0 with an error response. -/
theorem hostRead_refused {s : State} {size a : Nat} (h : accessTarget s false size a = none) :
    hostRead size a s = respond (.read 0 true) s := by
  simp [hostRead, h]

/-- Settles O11: the causes, and what the bus answers to a refused access. -/
theorem refusedAccessHasNoEffect : Obligations.RefusedAccessHasNoEffect := fun s w size a v =>
  ⟨accessTarget_eq_none_iff s w size a, hostRead_refused, hostWrite_refused size a v s⟩

end Sys2Proof.Machine
end

section
/-! PROOFS. The reset and the end of INIT (R60, R250, R251). -/

namespace Sys2Proof.Machine

/-- R251: on the engine's turn during INIT the step ends INIT. -/
theorem step_of_init {s : State} (hturn : engineTurn s = true) (hinit : s.init = true) :
    step s = .next (endInit s) := by
  simp [step, event, engineStep, hturn, hinit]

@[simp] theorem readWord_nil (a : Nat) : readWord [] a = 0 := by
  simp only [readWord, readByte_nil]
  rfl

@[simp] theorem readSample_nil (a : Nat) : readSample [] a = 0 := by
  simp only [readSample, readByte_nil]
  rfl

/-- R36: STATUS reads 0 where its three bits are 0. -/
theorem statusWord_eq_zero {s : State} (hbusy : s.busy = false) (hbank : s.activeBank = false)
    (hinit : s.init = false) : statusWord s = 0 := by
  rw [statusWord, hbusy, hbank, hinit]
  rfl

/-- Settles O21: INIT ends with a memory that lists nothing, and an unlisted byte reads 0. -/
theorem initEndsWithZeroMemoriesAndStatus : Obligations.InitEndsWithZeroMemoriesAndStatus := by
  intro s hinit hturn
  have hstatus : statusWord (endInit s) = 0 :=
    statusWord_eq_zero (endInit_busy s) (endInit_activeBank s) (endInit_init s)
  exact ⟨endInit s, step_of_init hturn hinit, hstatus, fun b w _ _ => readWord_nil (elmAddr b w),
    fun x k _ => readSample_nil (audioAddr x k), rfl⟩

/-- R250: what the platform's reset leaves does not depend on the latency counted so far. -/
@[simp] theorem platformReset_countDown (s : State) : platformReset (countDown s) = platformReset s := by
  simp [platformReset]

/-- Settles O22: the host's event is the reset, which overwrites all but the fields it is said to keep. -/
theorem platformResetAbandonsThePendingCommand : Obligations.PlatformResetAbandonsThePendingCommand := by
  intro s rest hhost
  calc hostStep s
      _ = platformReset (countDown { s with host := rest }) := hostStep_cons hhost
      _ = platformReset { s with host := rest } := platformReset_countDown _

end Sys2Proof.Machine
end
